-- ==== Sys2Proof/Word.lean ====
section
/-! DEFINITION. The word types of the link: a word is 16 bits (00_scope.md, Conventions); addresses, tags, kinds
and current codes are 8 bits (12_word_formats.md). -/

namespace Sys2Proof

/-- A word of a sweep, a parcel, a section or a return message: 16 bits, bit 15 the most significant. -/
abbrev Word := BitVec 16

/-- An 8-bit field: an address, a tag, a kind code, a result code, a current code. -/
abbrev Byte := BitVec 8

end Sys2Proof
end

