-- ==== Sys2Proof/Syntax.lean ====
section
/-! DEFINITION. The commands of the node: one constructor of `Instr` per row of spec/opcode_table.json, with the
operands the row's rule takes in. -/

namespace Sys2Proof

/-- FLOW-GO or FLOW-HOLD (R1, R45, R46). -/
inductive Flow where
  | go
  | hold
deriving DecidableEq, Repr

/-- What begins or extends a power-on reset (R208). -/
inductive ResetCause where
  /-- RSTN is driven low and stays low for at least `lowNs` nanoseconds; under 1 µs it is a pulse that is ignored. -/
  | rstnLow (lowNs : Nat)
  /-- VCC falls below 2.7 V. -/
  | vccLow
deriving DecidableEq, Repr

/-- The line released by RESET_RELEASE: RSTN goes high, or VCC rises back to 2.7 V or above (R208). -/
inductive ResetLine where
  | rstn
  | vcc
deriving DecidableEq, Repr

/-- A VCC crossing of 1.5 V (R209). -/
inductive VccEdge where
  | falling
  | rising
deriving DecidableEq, Repr

/-- What the node measures over `len` consecutive counts of a cycle: the LED supply sense voltage and the voltage of
each output, in millivolts (R151 to R155). -/
structure ObsWindow where
  len : Nat
  vls : Nat
  out : Vector Nat 16
deriving DecidableEq, Repr

/-- What the node measures over one PWM cycle: the windows follow one another from count 0, and `vlsEnd` is the
voltage on VLS at the end of the cycle, in millivolts (R151, R182). -/
structure CycleObs where
  windows : List ObsWindow
  vlsEnd : Nat
deriving DecidableEq, Repr

/-- The commands, in the order of spec/opcode_table.json. -/
inductive Instr where
  /-- POWER_ON_RESET (R208). -/
  | powerOnReset (cause : ResetCause)
  /-- RESET_END (R208): the 1 ms after the release has passed. -/
  | resetEnd
  /-- DI_START (R25, R39, R40). -/
  | diStart
  /-- DI_HEADER_WORD (R26). -/
  | diHeaderWord (w : Word)
  /-- DI_PAYLOAD_WORD (R29). -/
  | diPayloadWord (w : Word)
  /-- DI_PARCEL_WORD (R31). -/
  | diParcelWord (w : Word)
  /-- DI_TRAILER_WORD (R33). -/
  | diTrailerWord (w : Word)
  /-- DI_EXTRA_WORD (R38). -/
  | diExtraWord (w : Word)
  /-- DI_DISCARDED_WORD (R25, R40). -/
  | diDiscardedWord (w : Word)
  /-- DI_END (R34, R37, R38, R40). -/
  | diEnd
  /-- DI_FLOW_SYMBOL (R46). -/
  | diFlowSymbol (f : Flow)
  /-- FLOW_SYMBOL_REPEAT (R45): 1 ms has passed on DO with no sweep open and no flow symbol sent. -/
  | flowSymbolRepeat
  /-- PING (R128), the parcel at the head of the buffer; so are the other parcel commands. -/
  | ping
  /-- STATUS (R129). -/
  | status
  /-- WRITE (R96). -/
  | write
  /-- READ (R97). -/
  | read
  /-- COMMIT (R99, R100). -/
  | commit
  /-- DISCARD (R98). -/
  | discard
  /-- FREEZE (R106). -/
  | freeze
  /-- THAW (R107). -/
  | thaw
  /-- CAPTURE (R202). -/
  | capture
  /-- READ_SNAPSHOT (R207). -/
  | readSnapshot
  /-- ACK_START (R200). -/
  | ackStart
  /-- CLEAR_FAULTS (R166). -/
  | clearFaults
  /-- RESTART (R125 to R127). -/
  | restart
  /-- UNKNOWN_KIND_PARCEL (R118, R121, R216). -/
  | unknownKindParcel
  /-- CYCLE_START (R78). -/
  | cycleStart
  /-- CYCLE_COMPLETION (R81, R151, R182), with what was measured over the cycle. -/
  | cycleCompletion (obs : CycleObs)
  /-- THERMAL_SAMPLE (R174): the die temperature in thousandths of a degree Celsius, and the count of the PWM cycle
  at which the sample falls (R80). -/
  | thermalSample (milliC : Int) (count : Nat)
  /-- WATCH_EXPIRY (R191). -/
  | watchExpiry
  /-- HOLDOVER_EXPIRY (R192). -/
  | holdoverExpiry
  /-- TRANSMISSION_START (R144 to R146). -/
  | transmissionStart
  /-- TRANSMISSION_COMPLETION (R146). -/
  | transmissionCompletion
  /-- RI_MESSAGE_START (R142): START on RI. -/
  | riMessageStart
  /-- RI_MESSAGE_RECEIVED (R141): END on RI, with the words that came since START. -/
  | riMessageReceived (words : List Word)
  /-- RESET_RELEASE (R208). -/
  | resetRelease (line : ResetLine)
  /-- DO_SYMBOL_TIME (R23). -/
  | doSymbolTime
  /-- VCC_FLT_DRIVE_THRESHOLD (R209). -/
  | vccFltDriveThreshold (edge : VccEdge)
deriving DecidableEq, Repr

end Sys2Proof
end

