-- ==== Sys2Proof/Decode.lean ====
section
/-! DEFINITION. The decoder of spec/opcode_table.json: none of its rows gives bits (each row's "fields" is empty, and no
row has "fixed"), so no word spells a command. The words of the lanes are read by Machine/Operands.lean. -/

namespace Sys2Proof

/-- The command that a word of `nbits` bits spells by the table's bits: none, since the table gives no row any. -/
def decodeTableWord (_nbits _w : Nat) : Option Instr := none

end Sys2Proof
end

