-- ==== Sys2Proof/Machine/State.lean ====
section
/-! DEFINITION. The state of the node as plain data, block by block (00_scope.md, "Block diagram"), with the value
of every field right after a power-on reset has ended, and the reasons a step can stop. -/

namespace Sys2Proof.Machine

open Sys2Proof

/-- Nothing stops the node: the spec gives every command an effect in every state, so no fault has a name.
Nobody raises one (safe). -/
inductive Fault where
deriving DecidableEq, Repr

/-- Reasons to refuse a command. -/
inductive Refusal where
  /-- Raised by an arm of `exec` for a command that has no meaning yet (safe); no arm raises it in this model. -/
  | notModelled (mnemonic : String)
deriving DecidableEq, Repr

/-! ### Link receiver/forwarder -/

/-- What a lane carries in one symbol time: a word or one of the five control symbols (R1). -/
inductive Symbol where
  | word (w : Word)
  | startSym
  | endSym
  | idle
  | flow (f : Flow)
deriving DecidableEq, Repr

/-- The four sweep kinds (R22). -/
inductive SweepKind where
  | data
  | latch
  | manage
  | enum
deriving DecidableEq, Repr

/-- The five fields of a slot-map entry (R3); curve 4 is RAW. -/
structure Entry where
  start : Nat
  length : Nat
  first : Nat
  curve : Nat
  take : Bool
deriving DecidableEq, Repr

/-- What the receiver records of a sweep at its header acceptance and holds to the sweep end (R5, R13, R26, R30). -/
structure Sweep where
  kind : SweepKind
  hold : Bool
  p : Nat
  q : Nat
  num : Word
  /-- The map that governs the sweep (R5). -/
  map : List Entry
  /-- The address A of an ENUM sweep, once it has arrived (R30). -/
  enumAddr : Option Byte
deriving DecidableEq, Repr

/-- A parcel filtered in is addressed or broadcast (R109). -/
inductive Standing where
  | addressed
  | broadcast
deriving DecidableEq, Repr

/-- The word of a parcel that the receiver expects next (R31). -/
inductive ParcelPos where
  | addressWord
  /-- The kind-and-length word of a parcel with this target and tag; `std` is none when it is filtered out (R109, R110). -/
  | kindLenWord (target tag : Byte) (std : Option Standing)
  /-- A body word, `left` of them still to come; `storing` when the parcel engine stores them (R112). -/
  | bodyWord (left : Nat) (storing : Bool)
deriving DecidableEq, Repr

/-- The seven receiver states (R24), each with what the receiver holds in it. -/
inductive Rx where
  | waitStart
  /-- The header words that have arrived. -/
  | header (got : List Word)
  /-- `k` payload words have arrived (R29). -/
  | payload (sw : Sweep) (k : Nat)
  /-- `left` parcels have not ended yet, the one arriving among them (R31). -/
  | parcels (sw : Sweep) (left : Nat) (pos : ParcelPos)
  /-- The outcome of the check comparison once the check word has arrived (R33). -/
  | trailer (sw : Sweep) (checkOk : Option Bool)
  | waitEnd (sw : Sweep) (checkOk clean : Bool)
  | skip
deriving DecidableEq, Repr

/-- The state the link receiver/forwarder owns. -/
structure Link where
  rx : Rx
  inCrc : Word
  outCrc : Word
  framingExact : Bool
  voidMark : Bool
  /-- The forwarded payload count of the last DATA sweep accepted, 0 before the first (R13, R44; log entry 26). -/
  fwdCount : Nat
  address : Byte
  lastGood : Word
  flowIn : Flow
  doQueue : List Symbol
  doLane : Symbol
deriving DecidableEq, Repr

/-! ### Table store -/

/-- The section codes (12_word_formats.md, 12.1). -/
inductive SecCode where
  | map
  | curves
  | drive
  | policy
deriving DecidableEq, Repr

/-- The five parts of a section of `n` words (R85). -/
structure Section (n : Nat) where
  active : Vector Word n
  shadow : Vector Word n
  gen : Word
  frozen : Bool
  pending : Bool
deriving DecidableEq, Repr

/-- The four sections and their sizes (R85). -/
structure Tables where
  map : Section 49
  curves : Section 68
  drive : Section 33
  policy : Section 25
deriving DecidableEq, Repr

/-! ### Parcel engine -/

/-- The thirteen parcel kinds (R119). -/
inductive ParcelKind where
  | ping | status | write | read | commit | discard | freeze | thaw | capture | readSnapshot | ackStart
  | clearFaults | restart
deriving DecidableEq, Repr

/-- The result codes (R131). -/
inductive ResultCode where
  | done | accepted | refusedFrozen | refusedPending | refusedInvalid | refusedRange | refusedGen | refusedNone
  | badKind | badLength | parcelOverflow
deriving DecidableEq, Repr

/-- A stored parcel (R111); `len` is its body length L and `body` what has arrived of its body. -/
structure Parcel where
  target : Byte
  tag : Byte
  kind : Byte
  len : Nat
  body : List Word
  sweepNum : Word
  standing : Standing
  executable : Bool
deriving DecidableEq, Repr

/-- The account of the parcels of the sweep in flight (R113). -/
structure Account where
  /-- Closed to storage by an overflow. -/
  closed : Bool
  /-- The number of filtered-in parcels of the sweep that were not stored. -/
  unstored : Nat
  /-- The tag of the first addressed parcel among them. -/
  firstTag : Option Byte
deriving DecidableEq, Repr

/-- An entry of the duplicate history (R123). -/
structure HistEntry where
  tag : Byte
  kind : ParcelKind
  code : ResultCode
deriving DecidableEq, Repr

/-- The cause of the start mark (R199). -/
inductive Cause where
  | power
  | restart
deriving DecidableEq, Repr

/-- The state the parcel engine owns. -/
structure Parcels where
  buffer : List Parcel
  account : Option Account
  history : List HistEntry
  startMark : Bool
  cause : Cause
deriving DecidableEq, Repr

/-! ### Level unit -/

/-- The five values of a channel (R47). -/
structure LevelCh where
  staged : Word
  stagedMark : Bool
  held : Word
  heldMark : Bool
  active : Word
deriving DecidableEq, Repr

/-! ### Drive unit -/

/-- The off-forced mark of a channel: clear, set at the cycle start, or set at the count at which an entry into CRITICAL cut
the cycle (R80, R81, R157; log entry 20). -/
inductive OffMark where
  | clear
  | fromStart
  | cutAt (count : Nat)
deriving DecidableEq, Repr

/-- What the drive unit holds of a channel for the cycle in progress (R78, R80). -/
structure DriveCh where
  onTime : Nat
  code : Byte
  phase : Fin 4
  off : OffMark
deriving DecidableEq, Repr

/-- The state the drive unit owns; `running` while a cycle is in progress (R77). -/
structure Drive where
  running : Bool
  rate : Fin 4
  ch : Vector DriveCh 16
deriving DecidableEq, Repr

/-! ### Diagnostics unit -/

/-- The states of a fault record (R150). -/
inductive RecState where
  | clear
  | suspect
  | confirmed
  | recovering
deriving DecidableEq, Repr

/-- A fault record (R150). -/
structure FaultRec where
  state : RecState
  run : Nat
  seen : Bool
deriving DecidableEq, Repr

/-- The state the diagnostics unit owns; a record index is a `Fin 63`. -/
structure Diag where
  records : Vector FaultRec 63
  /-- The isolation latches, each empty or naming one record (R163). -/
  latches : Vector (Option (Fin 63)) 16
  /-- The changed set, one mark per record (R165). -/
  changed : Vector Bool 63
deriving DecidableEq, Repr

/-! ### Thermal and supply monitors, link watch -/

/-- The thermal bands, lowest first (R175). -/
inductive Band where
  | normal
  | warm
  | hot
  | critical
deriving DecidableEq, Repr

/-- The state the thermal monitor owns; `reading` is none until the first sample (R181). -/
structure Thermal where
  reading : Option Int
  band : Band
  highest : Band
deriving DecidableEq, Repr

/-- The supply states (R183). -/
inductive SupplyState where
  | ok
  | low
deriving DecidableEq, Repr

/-- The state the supply monitor owns (R183). -/
structure Supply where
  state : SupplyState
  agree : Nat
  lowMark : Bool
deriving DecidableEq, Repr

/-- The link states (R187). -/
inductive LinkState where
  | silent
  | live
  | holdover
  | fallback
deriving DecidableEq, Repr

/-- The state the link watch owns; a running timer holds its duration in ms, fixed at its start (R188). -/
structure Watch where
  state : LinkState
  watchTimer : Option Nat
  holdTimer : Option Nat
deriving DecidableEq, Repr

/-! ### Return-lane unit -/

/-- The notice kinds (R136). -/
inductive NoticeKind where
  | fault
  | thermal
  | supply
  | link
deriving DecidableEq, Repr

/-- What a message of this node says, apart from its source and LOST flag (R131, R132). -/
inductive Content where
  | reply (tag : Byte) (code : ResultCode) (rep : Bool) (body : List Word)
  | notice (kind : NoticeKind) (body : List Word)
deriving DecidableEq, Repr

/-- A message of the local reply queue, fixed when it joins (R132). -/
structure Msg where
  source : Byte
  lost : Bool
  content : Content
deriving DecidableEq, Repr

/-- The receiving side of RI (R141, R142). -/
inductive RiState where
  | idle
  | arriving
  | overrun
deriving DecidableEq, Repr

/-- The state the return-lane unit owns; messages from below, and the one on RO, are kept as the words between
their START and END (R141, R146). -/
structure Ret where
  queue : List Msg
  pass : List (List Word)
  ri : RiState
  ro : Option (List Word)
  thermalFlag : Bool
  supplyFlag : Bool
  linkFlag : Bool
  prevLink : LinkState
  lost : Bool
  passCount : Nat
deriving DecidableEq, Repr

/-! ### Snapshot unit, pins -/

/-- The snapshot unit (R201). -/
structure Snap where
  image : Vector Word 74
  valid : Bool
deriving DecidableEq, Repr

/-- VCC against its two thresholds, 2.7 V and 1.5 V (R208, R209). -/
inductive VccRange where
  | normal
  | below27
  | below15
deriving DecidableEq, Repr

/-- `held`: a power-on reset lasts because a line is not released; `counting`: its last 1 ms runs; `up`: none (R208). -/
inductive ResetPhase where
  | up
  | held
  | counting
deriving DecidableEq, Repr

/-- The pins that are inputs and the power-on reset (R208). -/
structure Pins where
  rstnLow : Bool
  vcc : VccRange
  phase : ResetPhase
deriving DecidableEq, Repr

/-- The whole node, and the queue of commands that wait for it. -/
structure State where
  link : Link
  tables : Tables
  parcels : Parcels
  levels : Vector LevelCh 16
  drive : Drive
  diag : Diag
  thermal : Thermal
  supply : Supply
  watch : Watch
  ret : Ret
  snap : Snap
  pins : Pins
  /-- How many free choices have been taken; the model's own counter (log entry 6). -/
  freeUses : Nat
  /-- The commands that wait, first in, first out. -/
  pending : List Instr
deriving DecidableEq, Repr

/-! ### The machine right after reset -/

/-- The power-on words of MAP (R4, R88). -/
def mapWords0 : Vector Word 49 := Vector.replicate 49 0

/-- The power-on words of CURVES: the identity curve four times (R66, R88). -/
def curvesWords0 : Vector Word 68 := Vector.ofFn fun i => BitVec.ofNat 16 (256 * (i.val % 17))

/-- The power-on words of DRIVE (R73, R88, R212). -/
def driveWords0 : Vector Word 33 := Vector.ofFn fun i =>
  if i.val = 32 then 0x0001 else if i.val % 2 = 1 then 0x00F1 else BitVec.ofNat 16 (256 * (i.val / 2 % 4))

/-- The power-on words of POLICY (R88, R212). -/
def policyWords0 : Vector Word 25 := Vector.ofFn fun i =>
  [50, 20, 100, 125, 192, 96, 0x0033, 0x000F, 0x0011].getD i.val 0

/-- A section at power-on: both copies alike, generation 0, no mark (R88). -/
def Section.powerOn {n : Nat} (w : Vector Word n) : Section n :=
  { active := w, shadow := w, gen := 0, frozen := false, pending := false }

/-- The state right after a power-on reset has ended, with VCC and RSTN released: every block at its power-on values,
the start mark set with cause POWER, FLOW-GO waiting in the DO queue, and the first PWM cycle in progress on the
values of its cycle start (R208; log entry 1). -/
def State.reset : State where
  link := {
    rx := .waitStart, inCrc := 0xFFFF, outCrc := 0xFFFF, framingExact := true, voidMark := false, fwdCount := 0
    address := 255, lastGood := 0, flowIn := .hold, doQueue := [.flow .go], doLane := .idle }
  tables := {
    map := .powerOn mapWords0, curves := .powerOn curvesWords0, drive := .powerOn driveWords0
    policy := .powerOn policyWords0 }
  parcels := { buffer := [], account := none, history := [], startMark := true, cause := .power }
  levels := Vector.replicate 16 { staged := 0, stagedMark := false, held := 0, heldMark := false, active := 0 }
  drive := {
    running := true, rate := 1
    ch := Vector.ofFn fun c => { onTime := 0, code := 0, phase := Fin.ofNat 4 c.val, off := .clear } }
  diag := {
    records := Vector.replicate 63 { state := .clear, run := 0, seen := false }
    latches := Vector.replicate 16 none
    changed := Vector.replicate 63 false }
  thermal := { reading := none, band := .normal, highest := .normal }
  supply := { state := .ok, agree := 0, lowMark := false }
  watch := { state := .silent, watchTimer := none, holdTimer := none }
  ret := {
    queue := [], pass := [], ri := .idle, ro := none, thermalFlag := false, supplyFlag := false, linkFlag := false
    prevLink := .silent, lost := false, passCount := 0 }
  snap := { image := Vector.replicate 74 0, valid := false }
  pins := { rstnLow := false, vcc := .normal, phase := .up }
  freeUses := 0
  pending := []

end Sys2Proof.Machine
end

