-- ==== Sys2Proof/Machine/Operands.lean ====
section
/-! DEFINITION. The word formats of 12_word_formats.md: how the node reads the fields of header, ENUM, parcel, mark and
section words, and how it composes the words of its own messages. -/

namespace Sys2Proof.Machine

open Sys2Proof

/-! ### Fields of a word -/

/-- The `n` bits of a word from bit `lo` up, as an unsigned number. -/
def bitsAt (w : Word) (lo n : Nat) : Nat := (w.extractLsb' lo n).toNat

/-- Bits 15..8. -/
def hiByte (w : Word) : Byte := w.extractLsb' 8 8

/-- Bits 7..0. -/
def loByte (w : Word) : Byte := w.extractLsb' 0 8

/-- A composed word with the given value; its spare bits are 0 (R213). -/
def wordOf (n : Nat) : Word := BitVec.ofNat 16 n

/-- The weight of a one-bit mark at bit `i`. -/
def markAt (b : Bool) (i : Nat) : Nat := if b then 2 ^ i else 0

/-- Word `i` of a copy of a section or of an image; offsets beyond it are never used by a valid content. -/
def wordAt {n : Nat} (v : Vector Word n) (i : Nat) : Word := v[i]?.getD 0

/-- Body word `i` of a parcel; a stored parcel of suitable length holds every body word its kind reads (R112, R119). -/
def Parcel.bodyAt (p : Parcel) (i : Nat) : Word := p.body.getD i 0

/-! ### Sweep header, ENUM word, mark word (R212, R213, R215) -/

/-- The sweep kind of header word 0, none for an undefined code (R216). -/
def sweepKindOf (w0 : Word) : Option SweepKind :=
  match bitsAt w0 12 4 with
  | 1 => some .data
  | 2 => some .latch
  | 3 => some .manage
  | 4 => some .enum
  | _ => none

/-- HOLD of header word 0. -/
def holdOf (w0 : Word) : Bool := w0.getLsbD 11

/-- Q of header word 0. -/
def qOf (w0 : Word) : Nat := bitsAt w0 0 5

/-- The kind's own requirement on HOLD, P and Q (R22). -/
def SweepKind.admits (k : SweepKind) (hold : Bool) (p q : Nat) : Bool :=
  match k with
  | .data => p ≤ 4096
  | .latch => !hold && p == 0
  | .manage => !hold && p == 0
  | .enum => !hold && p == 1 && q == 0

/-- The kind of a valid header, none when the header is invalid (R22). -/
def judgeHeader (w0 w2 : Word) : Option SweepKind :=
  match sweepKindOf w0 with
  | some k => if bitsAt w0 5 6 = 0 ∧ k.admits (holdOf w0) w2.toNat (qOf w0) = true then some k else none
  | none => none

/-- What an ENUM sends on for the address it received (R30). -/
def enumNext (a : Byte) : Byte := if a.toNat ≤ 253 then a + 1 else 255

/-- The CLEAN mark word (R212, R215). -/
def cleanMark : Word := 0x5AC3

/-- The POISON mark word as the node sends it (R212, R215). -/
def poisonMark : Word := 0xA53C

/-! ### Parcels (R119, R212) -/

/-- The kind of a kind code, none when the code is unknown (R216). -/
def parcelKindOf (code : Byte) : Option ParcelKind :=
  match code.toNat with
  | 0x01 => some .ping
  | 0x02 => some .status
  | 0x03 => some .write
  | 0x04 => some .read
  | 0x05 => some .commit
  | 0x06 => some .discard
  | 0x07 => some .freeze
  | 0x08 => some .thaw
  | 0x09 => some .capture
  | 0x0A => some .readSnapshot
  | 0x0B => some .ackStart
  | 0x0C => some .clearFaults
  | 0x0D => some .restart
  | _ => none

/-- Whether a body length suits the kind (R119). -/
def ParcelKind.suits (k : ParcelKind) (len : Nat) : Bool :=
  match k with
  | .ping | .status | .capture | .ackStart | .restart => len == 0
  | .write => 2 ≤ len && len ≤ 62
  | .read | .thaw | .readSnapshot | .clearFaults => len == 2
  | .commit | .discard | .freeze => len == 1

/-- Whether the duplicate history records the kind (R119). -/
def ParcelKind.recorded (k : ParcelKind) : Bool :=
  match k with
  | .write | .commit | .discard | .freeze | .thaw | .capture | .ackStart | .clearFaults => true
  | .ping | .status | .read | .readSnapshot | .restart => false

/-- Whether a broadcast parcel of the kind is executed and not ignored (R119, R121). -/
def ParcelKind.runsBroadcast (k : ParcelKind) : Bool :=
  match k with
  | .write | .commit | .discard | .freeze | .capture | .ackStart | .clearFaults | .restart => true
  | .ping | .status | .read | .thaw | .readSnapshot => false

/-- The section that a section code in bits 15..14 of a body word names (R212). -/
def sectionOf (w : Word) : SecCode :=
  match bitsAt w 14 2 with
  | 0 => .map
  | 1 => .curves
  | 2 => .drive
  | _ => .policy

/-- The offset of WRITE and READ: bits 6..0 of body word 0. -/
def offsetOf (w : Word) : Nat := bitsAt w 0 7

/-- READ names the shadow copy when bit 13 is 1. -/
def namesShadow (w : Word) : Bool := w.getLsbD 13

/-- The code value of a section, also its place in a section set (R212). -/
def SecCode.value (c : SecCode) : Nat :=
  match c with
  | .map => 0
  | .curves => 1
  | .drive => 2
  | .policy => 3

/-- The order in which a table parcel takes the sections of a set (R85). -/
def sectionOrder : List SecCode := [.map, .curves, .drive, .policy]

/-- The sections marked in a section-set word, in that order. -/
def sectionSet (w : Word) : List SecCode := sectionOrder.filter fun c => w.getLsbD c.value

/-! ### Return messages (R131, R212) -/

/-- The value of a result code. -/
def ResultCode.value (c : ResultCode) : Nat :=
  match c with
  | .done => 0x00
  | .accepted => 0x01
  | .refusedFrozen => 0x10
  | .refusedPending => 0x11
  | .refusedInvalid => 0x12
  | .refusedRange => 0x13
  | .refusedGen => 0x14
  | .refusedNone => 0x15
  | .badKind => 0x20
  | .badLength => 0x21
  | .parcelOverflow => 0x22

/-- The value of a notice kind. -/
def NoticeKind.value (k : NoticeKind) : Nat :=
  match k with
  | .fault => 1
  | .thermal => 2
  | .supply => 3
  | .link => 4

/-- The value of a band. -/
def Band.value (b : Band) : Nat :=
  match b with
  | .normal => 0
  | .warm => 1
  | .hot => 2
  | .critical => 3

/-- The value of a link state. -/
def LinkState.value (l : LinkState) : Nat :=
  match l with
  | .silent => 0
  | .live => 1
  | .holdover => 2
  | .fallback => 3

/-- The value of a supply state. -/
def SupplyState.value (s : SupplyState) : Nat :=
  match s with
  | .ok => 0
  | .low => 1

/-- The value of a record state. -/
def RecState.value (r : RecState) : Nat :=
  match r with
  | .clear => 0
  | .suspect => 1
  | .confirmed => 2
  | .recovering => 3

/-- The header and body words of a message of this node (R131, R212). -/
def Msg.words (m : Msg) : List Word :=
  match m.content with
  | .reply tag code rep body =>
    wordOf (markAt m.lost 14 + markAt rep 13 + m.source.toNat) :: wordOf (256 * tag.toNat + code.value) ::
      wordOf body.length :: body
  | .notice kind body =>
    wordOf (markAt true 15 + markAt m.lost 14 + m.source.toNat) :: wordOf kind.value :: wordOf body.length :: body

/-- The part code word of a PING reply. -/
def partCode : Word := 0x7A16

/-! ### Section words (12.4) -/

/-- N of a copy of MAP. -/
def mapCount (v : Vector Word 49) : Nat := bitsAt (wordAt v 0) 0 5

/-- The entry in slot `j` of a copy of MAP. -/
def mapEntry (v : Vector Word 49) (j : Nat) : Entry :=
  let a := wordAt v (1 + 2 * j)
  let b := wordAt v (2 + 2 * j)
  { start := bitsAt a 0 12, length := bitsAt b 0 5, first := bitsAt b 8 4, curve := bitsAt b 12 3
    take := a.getLsbD 15 }

/-- The entries in force of a copy of MAP: slots 0 to N−1 in slot order (R2). -/
def mapEntries (v : Vector Word 49) : List Entry := (List.range (mapCount v)).map (mapEntry v)

/-- Point `i` of curve `c`. -/
def curvePoint (v : Vector Word 68) (c i : Nat) : Nat := (wordAt v (17 * c + i)).toNat

/-- Current code of channel `c`. -/
def driveCode (v : Vector Word 33) (c : Nat) : Byte := loByte (wordAt v (2 * c))

/-- Phase of channel `c`. -/
def drivePhase (v : Vector Word 33) (c : Nat) : Fin 4 := Fin.ofNat 4 (bitsAt (wordAt v (2 * c)) 8 2)

/-- The four reaction policies (R162). -/
inductive Policy where
  | quiet
  | report
  | isolate
  | isolateGroup
deriving DecidableEq, Repr

/-- Reaction policy of channel `c`. -/
def drivePolicy (v : Vector Word 33) (c : Nat) : Policy :=
  match bitsAt (wordAt v (2 * c + 1)) 0 2 with
  | 0 => .quiet
  | 1 => .report
  | 2 => .isolate
  | _ => .isolateGroup

/-- The detection mask of channel `c`, mark `k`: 0 OPEN, 1 SHORT-HIGH, 2 SHORT-LOW, 3 BRIDGE. -/
def driveMask (v : Vector Word 33) (c k : Nat) : Bool := (wordAt v (2 * c + 1)).getLsbD (4 + k)

/-- Cycle rate code. -/
def driveRate (v : Vector Word 33) : Fin 4 := Fin.ofNat 4 (bitsAt (wordAt v 32) 0 2)

/-- Watch time W. -/
def polW (v : Vector Word 25) : Nat := (wordAt v 0).toNat

/-- Holdover time H. -/
def polH (v : Vector Word 25) : Nat := (wordAt v 1).toNat

/-- Warm threshold, °C. -/
def polWarm (v : Vector Word 25) : Nat := (wordAt v 2).toNat

/-- Hot threshold, °C. -/
def polHot (v : Vector Word 25) : Nat := (wordAt v 3).toNat

/-- Warm factor dw. -/
def polDw (v : Vector Word 25) : Nat := (wordAt v 4).toNat

/-- Hot factor dh. -/
def polDh (v : Vector Word 25) : Nat := (wordAt v 5).toNat

/-- Confirm count C. -/
def polConfirm (v : Vector Word 25) : Nat := bitsAt (wordAt v 6) 0 4

/-- Clear count K. -/
def polClear (v : Vector Word 25) : Nat := bitsAt (wordAt v 6) 4 4

/-- Global detector enable `k`, in the order of the DRIVE mask. -/
def polEnable (v : Vector Word 25) (k : Nat) : Bool := (wordAt v 7).getLsbD k

/-- Short threshold code. -/
def polShort (v : Vector Word 25) : Nat := bitsAt (wordAt v 8) 0 2

/-- Supply threshold code. -/
def polSupply (v : Vector Word 25) : Nat := bitsAt (wordAt v 8) 4 2

/-- Fallback level of channel `c`. -/
def polFallback (v : Vector Word 25) (c : Nat) : Word := wordAt v (9 + c)

end Sys2Proof.Machine
end

