-- ==== Sys2Proof/Machine/Check.lean ====
section
/-! DEFINITION. The check word (00_scope.md, Conventions; R214): a 16-bit CRC, generator x^16 + x^12 + x^5 + 1. -/

namespace Sys2Proof.Machine

open Sys2Proof

/-- One bit fed into the register (R214). -/
def crcBit (reg : Word) (b : Bool) : Word :=
  if reg.msb = b then reg <<< 1 else (reg <<< 1) ^^^ 0x1021

/-- One word fed, most significant bit first (R214). -/
def crcWord (reg w : Word) : Word :=
  (List.range 16).foldl (fun r i => crcBit r (w.getLsbD (15 - i))) reg

/-- The value a register starts at (R214). -/
def crcInit : Word := 0xFFFF

/-- The check word of a list of words (R214). -/
def crcOf (ws : List Word) : Word := ws.foldl crcWord crcInit

end Sys2Proof.Machine
end

