-- ==== Sys2Proof/Config.lean ====
section
/-! DEFINITION. What an installation fixes and what the spec leaves free. The opaque constants have no body: no proof
can rest on a value of theirs. -/

namespace Sys2Proof.Config

/-- The resistance from REF to ground in ohms, none when REF is open (R75). It is fixed by the board, so it is a
free constant. It decides Imax, and with it whether the OPEN detector sees collapsed outputs. DESIGN CHOICE, log entry
16, safe. -/
opaque refOhms : Option Nat

/-- Whether a temperature exactly half way between two degrees is read as the upper one: R174 says "rounded to the
nearest degree" and no more. A free value of the temperature in thousandths of a degree. DESIGN CHOICE, log entry 7, safe. -/
opaque roundHalfUp : Int → Bool

/-- Whether, at one sweep end, a PARCEL-OVERFLOW reply joins the local reply queue before a notice that becomes
eligible there: R134 says "either may join first". A free value of the counter `State.freeUses`. DESIGN CHOICE, log
entry 6, safe. -/
opaque replyJoinsFirst : Nat → Bool

end Sys2Proof.Config
end

