-- ==== Sys2Proof/Machine/SlotMap.lean ====
section
/-! DEFINITION. What the entries in force of a MAP do to a sweep and to the channels (01_the_slot_map.md). -/

namespace Sys2Proof.Machine

open Sys2Proof

/-- The entry covers payload position `k` (R3). -/
def Entry.covers (e : Entry) (k : Nat) : Bool := e.start ≤ k && k < e.start + e.length

/-- The entry feeds channel `c` (R3, R17). -/
def Entry.feeds (e : Entry) (c : Nat) : Bool := e.first ≤ c && c < e.first + e.length

/-- In-range coverage of the entry for a sweep of `p` payload words (R10). -/
def Entry.inRange (e : Entry) (p : Nat) : Nat :=
  if p ≤ e.start then 0 else min (e.start + e.length) p - e.start

/-- The entry that covers a position, if any (R9). -/
def coveringEntry (m : List Entry) (k : Nat) : Option Entry := m.find? fun e => e.covers k

/-- How many of `p` payload words the take entries remove (R13). -/
def takenCount (m : List Entry) (p : Nat) : Nat := ((m.filter fun e => e.take).map fun e => e.inRange p).sum

/-- The forwarded payload count of a DATA sweep (R13). -/
def forwardedCount (m : List Entry) (p : Nat) : Nat := p - takenCount m p

/-- The feeding entry of a channel (R17). -/
def feedingEntry (m : List Entry) (c : Nat) : Option Entry := m.find? fun e => e.feeds c

/-- Whether a channel is mapped (R17). -/
def mapped (m : List Entry) (c : Nat) : Bool := (feedingEntry m c).isSome

/-- The curve code of a channel: its feeding entry's, or RAW, 4 (R18). -/
def curveCode (m : List Entry) (c : Nat) : Nat :=
  match feedingEntry m c with
  | some e => e.curve
  | none => 4

end Sys2Proof.Machine
end

