-- ==== Sys2Proof/Machine/Levels.lean ====
section
/-! DEFINITION. The level unit (03_levels_staging_holding_and_latching.md): staging, the sweep ends, the displayed level. -/

namespace Sys2Proof.Machine

open Sys2Proof

/-- The sixteen channels changed all together (R56). -/
def eachChannel (f : LevelCh → LevelCh) (v : Vector LevelCh 16) : Vector LevelCh 16 := Vector.ofFn fun c => f v[c]

/-- The staged mark cleared; the value stays without effect (R47, R48, R53). -/
def LevelCh.unstage (l : LevelCh) : LevelCh := { l with stagedMark := false }

/-- A covered word staged against channel `c` (R49). -/
def stageChannel (c : Nat) (w : Word) (v : Vector LevelCh 16) : Vector LevelCh 16 :=
  Vector.ofFn fun i => if i.val = c then { v[i] with staged := w, stagedMark := true } else v[i]

/-- A channel at a good plain DATA sweep end (R51). -/
def LevelCh.bringIn (l : LevelCh) : LevelCh :=
  if l.stagedMark then { l with active := l.staged, heldMark := false, stagedMark := false } else l

/-- A channel at a good HOLD DATA sweep end (R52). -/
def LevelCh.park (l : LevelCh) : LevelCh :=
  if l.stagedMark then { l with held := l.staged, heldMark := true, stagedMark := false } else l

/-- A channel at a good LATCH sweep end (R54). -/
def LevelCh.latchIn (l : LevelCh) : LevelCh :=
  if l.heldMark then { l with active := l.held, heldMark := false } else l

/-- A channel at a RESTART (R64). -/
def LevelCh.restart (l : LevelCh) : LevelCh :=
  { l with active := 0, held := 0, heldMark := false, stagedMark := false }

/-- The level unit at a good sweep end (R51, R52, R54, R55). -/
def levelsAtGoodEnd (k : SweepKind) (hold : Bool) (v : Vector LevelCh 16) : Vector LevelCh 16 :=
  match k with
  | .data => if hold then eachChannel LevelCh.park v else eachChannel LevelCh.bringIn v
  | .latch => eachChannel LevelCh.latchIn v
  | .manage => v
  | .enum => v

/-- The level unit at a bad sweep end (R53, R55). -/
def levelsAtBadEnd (k : SweepKind) (v : Vector LevelCh 16) : Vector LevelCh 16 :=
  match k with
  | .data => eachChannel LevelCh.unstage v
  | .latch => v
  | .manage => v
  | .enum => v

/-- Whether mapped channels show their active level (R58, R187). -/
def LinkState.showsActive (l : LinkState) : Bool :=
  match l with
  | .live | .holdover => true
  | .silent | .fallback => false

/-- The entries in force of the active MAP. -/
def State.activeMap (s : State) : List Entry := mapEntries s.tables.map.active

/-- The displayed level of a channel (R58 to R60). -/
def State.displayed (s : State) (c : Fin 16) : Word :=
  if s.watch.state.showsActive && mapped s.activeMap c then s.levels[c].active
  else polFallback s.tables.policy.active c

end Sys2Proof.Machine
end

