-- ==== Sys2Proof/WellFormed.lean ====
section
/-! DEFINITION. Which commands can be given at all: the measured quantities of a command have the shape the spec
gives them. Every other operand fills its type. -/

namespace Sys2Proof

/-- A cycle is 4096 counts (R77). -/
def cycleCounts : Nat := 4096

/-- The windows of a cycle's observation cover its 4096 counts, none of them empty (R81, R151). -/
def CycleObs.covers (o : CycleObs) : Bool :=
  o.windows.all (fun w => 0 < w.len) && (o.windows.map (fun w => w.len)).sum == cycleCounts

/-- No measured voltage is above the 17 V range of VLS and of an output (00_scope.md, Pins and limits). -/
def CycleObs.inRange (o : CycleObs) : Bool :=
  o.windows.all (fun w => w.vls ≤ 17000 && w.out.toList.all (fun v => v ≤ 17000)) && o.vlsEnd ≤ 17000

/-- The checks on a command's operands. -/
def Instr.wf (i : Instr) : Bool :=
  match i with
  | .cycleCompletion obs => obs.covers && obs.inRange
  | .thermalSample _ count => count < cycleCounts
  | .powerOnReset _ | .resetEnd | .diStart | .diHeaderWord _ | .diPayloadWord _ | .diParcelWord _
  | .diTrailerWord _ | .diExtraWord _ | .diDiscardedWord _ | .diEnd | .diFlowSymbol _ | .flowSymbolRepeat
  | .ping | .status | .write | .read | .commit | .discard | .freeze | .thaw | .capture | .readSnapshot
  | .ackStart | .clearFaults | .restart | .unknownKindParcel | .cycleStart | .watchExpiry | .holdoverExpiry
  | .transmissionStart | .transmissionCompletion | .riMessageStart | .riMessageReceived _ | .resetRelease _
  | .doSymbolTime | .vccFltDriveThreshold _ => true

end Sys2Proof
end

