-- ==== Sys2Proof/Machine/DrivePath.lean ====
section
/-! DEFINITION. From level to light (04_correction_curves_and_output_drive.md): curve on-time, derate factor, effective
on-time, the cycle start, and the conduction of a cycle. -/

namespace Sys2Proof.Machine

open Sys2Proof

/-- The curve on-time of a level through curve `code` of a copy of CURVES, RAW when the code is above 3 (R67, R68). -/
def curveOnTime (curves : Vector Word 68) (code : Nat) (level : Word) : Nat :=
  let x := level.toNat
  if code ≤ 3 then
    let k := x / 4096
    let f := x % 4096
    curvePoint curves code k + (curvePoint curves code (k + 1) - curvePoint curves code k) * f / 4096
  else x / 16

/-- The derate factor (R70). -/
def derate (pol : Vector Word 25) (b : Band) : Nat :=
  match b with
  | .normal => 256
  | .warm => polDw pol
  | .hot => polDh pol
  | .critical => 0

/-- The effective on-time of a channel as presented to the drive unit (R71, R72). -/
def State.effOnTime (s : State) (c : Fin 16) : Nat :=
  if s.diag.latches[c].isSome then 0
  else
    curveOnTime s.tables.curves.active (curveCode s.activeMap c) (s.displayed c)
      * derate s.tables.policy.active s.thermal.band / 256

/-- What the drive unit takes of a channel at a cycle start (R78, R80). -/
def State.takenAtStart (s : State) (c : Fin 16) : DriveCh where
  onTime := s.effOnTime c
  code := driveCode s.tables.drive.active c
  phase := drivePhase s.tables.drive.active c
  off := if s.thermal.band = .critical then .fromStart else .clear

/-- A cycle start (R76, R78): all sixteen channels together, and the rate code. -/
def startCycle (s : State) : State :=
  { s with drive := {
      running := true, rate := driveRate s.tables.drive.active, ch := Vector.ofFn fun c => s.takenAtStart c } }

/-- The cycle rate in cycles per second (R76). -/
def cycleRate (r : Fin 4) : Nat := 500 * 2 ^ r.val

/-- The rate of the PWM count clock (R76). -/
def countClock (r : Fin 4) : Nat := 4096 * cycleRate r

/-! ### Conduction -/

/-- Count `i` lies in the on-window of the channel (R79). -/
def DriveCh.inWindow (d : DriveCh) (i : Nat) : Bool := (i + 4096 - 1024 * d.phase.val) % 4096 < d.onTime

/-- The count from which the off-forced mark holds the output off, none when it is clear (R80). -/
def DriveCh.offFrom (d : DriveCh) : Option Nat :=
  match d.off with
  | .clear => none
  | .fromStart => some 0
  | .cutAt n => some n

/-- The off-forced mark holds the output off at count `i` (R80). -/
def DriveCh.forcedOff (d : DriveCh) (i : Nat) : Bool :=
  match d.offFrom with
  | some n => n ≤ i
  | none => false

/-- The output conducts at count `i` of the cycle (R79). -/
def DriveCh.conducts (d : DriveCh) (i : Nat) : Bool := d.inWindow i && d.code != 0 && !d.forcedOff i

/-- Output `c` conducts at count `i` of the cycle in progress; none conducts when no cycle runs (R77). -/
def State.conducts (s : State) (c : Fin 16) (i : Nat) : Bool := s.drive.running && s.drive.ch[c].conducts i

/-- Imax in mA for a resistance at REF in ohms, none for an open REF (R75). -/
def imax (ohms : Option Nat) : Rat :=
  match ohms with
  | none => 0
  | some r => if r < 20000 then 60 else 1200000 / r

/-- The current output `c` sinks at count `i`, in mA (R74, R75), where the string gives it a path. -/
def State.sinkCurrent (s : State) (c : Fin 16) (i : Nat) : Rat :=
  if s.conducts c i then imax Config.refOhms * s.drive.ch[c].code.toNat / 255 else 0

/-- A run of consecutive counts of a cycle: `lo` is its first count and `hi` the count after its last. -/
structure CountRun where
  lo : Nat
  hi : Nat
deriving DecidableEq, Repr

/-- The counts two runs share, as a run; none when they share none. -/
def CountRun.meet (a b : CountRun) : Option CountRun :=
  if max a.lo b.lo < min a.hi b.hi then some { lo := max a.lo b.lo, hi := min a.hi b.hi } else none

/-- The runs of counts in a run of both lists. -/
def meetRuns (xs ys : List CountRun) : List CountRun := xs.flatMap fun a => ys.filterMap fun b => a.meet b

/-- The gaps that ascending runs leave from count `from_` to the end of the cycle. -/
def gapsFrom (from_ : Nat) (xs : List CountRun) : List CountRun :=
  match xs with
  | [] => if from_ < cycleCounts then [{ lo := from_, hi := cycleCounts }] else []
  | a :: rest => if from_ < a.lo then { lo := from_, hi := a.lo } :: gapsFrom a.hi rest else gapsFrom a.hi rest

/-- The on-window as runs of counts within the cycle (R79): one run, or two when it wraps. -/
def DriveCh.windowRuns (d : DriveCh) : List CountRun :=
  let lo := 1024 * d.phase.val
  if d.onTime = 0 then []
  else if cycleCounts ≤ d.onTime then [{ lo := 0, hi := cycleCounts }]
  else if lo + d.onTime ≤ cycleCounts then [{ lo := lo, hi := lo + d.onTime }]
  else [{ lo := 0, hi := lo + d.onTime - cycleCounts }, { lo := lo, hi := cycleCounts }]

/-- The runs of the cycle before the off-forced mark holds (R80, R81). -/
def DriveCh.openRuns (d : DriveCh) : List CountRun :=
  match d.offFrom with
  | some n => [{ lo := 0, hi := n }]
  | none => [{ lo := 0, hi := cycleCounts }]

/-- The conducting runs handed to diagnostics at the cycle completion (R81). -/
def DriveCh.onRuns (d : DriveCh) : List CountRun :=
  if d.code = 0 then [] else meetRuns d.windowRuns d.openRuns

/-- The non-conducting runs handed to diagnostics (R81). -/
def DriveCh.offRuns (d : DriveCh) : List CountRun := gapsFrom 0 d.onRuns

/-- The count at which the cycle was cut by CRITICAL, handed as the third part of a channel's conduction (R81); a cycle
that began in CRITICAL was not cut, and none is handed (R157). -/
def DriveCh.cutCount (d : DriveCh) : Option Nat :=
  match d.off with
  | .clear | .fromStart => none
  | .cutAt n => some n

/-- Every off-forced mark set at count `n`; a mark already set stays as it is (R80; log entry 20). -/
def cutOutputs (n : Nat) (d : Drive) : Drive :=
  { d with ch := Vector.ofFn fun c =>
      { d.ch[c] with off :=
        match d.ch[c].off with
        | .clear => .cutAt n
        | .fromStart => .fromStart
        | .cutAt m => .cutAt m } }

end Sys2Proof.Machine
end

