-- ==== Sys2Proof/Machine/Diagnostics.lean ====
section
/-! DEFINITION. The diagnostics unit (08_channel_diagnostics.md): which runs qualify, the samples, the debounce, the
isolation latches and CLEAR-FAULTS on the records. -/

namespace Sys2Proof.Machine

open Sys2Proof

/-! ### Records -/

/-- The four kinds of record (R150). -/
inductive RecKind where
  | openCircuit
  | shortHigh
  | shortLow
  | bridge
deriving DecidableEq, Repr

/-- The kind of record `i` (R150). -/
def recKind (i : Fin 63) : RecKind :=
  if i.val < 16 then .openCircuit else if i.val < 32 then .shortHigh else if i.val < 48 then .shortLow else .bridge

/-- The channel of record `i`; for a BRIDGE record the lower channel of the pair (R150). -/
def recChannel (i : Fin 63) : Fin 16 := Fin.ofNat 16 i.val

/-- The place of a kind in the detection mask, the enables and the kind mask of CLEAR-FAULTS (R212). -/
def RecKind.place (k : RecKind) : Nat :=
  match k with
  | .openCircuit => 0
  | .shortHigh => 1
  | .shortLow => 2
  | .bridge => 3

/-- A record is standing when CONFIRMED or RECOVERING (R150). -/
def RecState.standing (r : RecState) : Bool :=
  match r with
  | .confirmed | .recovering => true
  | .clear | .suspect => false

/-- The reaction policy of a record: that of its channel in the active DRIVE section (R162). -/
def recPolicy (drive : Vector Word 33) (i : Fin 63) : Policy := drivePolicy drive (recChannel i).val

/-- Record `i`, confirmed under policy `p`, affects channel `c` (R163). -/
def affects (p : Policy) (i : Fin 63) (c : Fin 16) : Bool :=
  let n := (recChannel i).val
  let pair := recKind i == .bridge
  match p with
  | .quiet | .report => false
  | .isolate => c.val == n || (pair && c.val == n + 1)
  | .isolateGroup => c.val / 4 == n / 4 || (pair && c.val / 4 == (n + 1) / 4)

/-- The lowest-index record with a property. -/
def lowestRec (f : Fin 63 → Bool) : Option (Fin 63) := (List.finRange 63).find? f

/-- How many records have a property. -/
def countRecs (f : Fin 63 → Bool) : Nat := ((List.finRange 63).filter f).length

/-! ### Samples -/

/-- The outcome of one cycle's look (R151). -/
inductive Sample where
  | pass
  | fail
  | noSample
deriving DecidableEq, Repr

/-- A run of at least 64 counts qualifies (R151). -/
def CountRun.qualifies (r : CountRun) : Bool := r.lo + 64 ≤ r.hi

/-- The judged counts of a qualifying run: from its 33rd count to its end (R151). -/
def CountRun.judged (r : CountRun) : CountRun := { lo := r.lo + 32, hi := r.hi }

/-- A condition holds in a window that shares a count with `j`; the first window of the list begins at count `at_`. -/
def seenIn (ws : List ObsWindow) (at_ : Nat) (j : CountRun) (cond : ObsWindow → Bool) : Bool :=
  match ws with
  | [] => false
  | w :: rest =>
    ((CountRun.meet { lo := at_, hi := at_ + w.len } j).isSome && cond w) || seenIn rest (at_ + w.len) j cond

/-- A failing condition is present at some judged count of some qualifying run (R151). -/
def failsIn (obs : CycleObs) (runs : List CountRun) (cond : ObsWindow → Bool) : Bool :=
  runs.any fun r => r.qualifies && seenIn obs.windows 0 r.judged cond

/-- The short threshold of a code, in mV (R153). -/
def shortThreshold (code : Nat) : Nat :=
  match code with
  | 0 => 800
  | 1 => 1200
  | 2 => 1600
  | _ => 2000

/-- OPEN: the conducting output collapses to within 0.2 V of ground (R152). With no current, at an Imax of 0, it always does,
whatever voltage the observation gives (R75; log entry 16). -/
def openFails (noCurrent : Bool) (c : Fin 16) (w : ObsWindow) : Bool := noCurrent || w.out[c] ≤ 200

/-- SHORT-HIGH: the headroom, VLS minus the output, is below the threshold (R153). -/
def shortHighFails (threshold : Nat) (c : Fin 16) (w : ObsWindow) : Bool := w.vls < w.out[c] + threshold

/-- SHORT-LOW: the output stays below 0.6 V (R154). -/
def shortLowFails (c : Fin 16) (w : ObsWindow) : Bool := w.out[c] < 600

/-- BRIDGE: the dark output is pulled to within 0.3 V of the conducting one (R155); it does not matter which is which. -/
def bridgeFails (n : Nat) (w : ObsWindow) : Bool :=
  let a := w.out[n]?.getD 0
  let b := w.out[n + 1]?.getD 0
  a ≤ b + 300 && b ≤ a + 300

/-- The taken values of channel `n`; a BRIDGE record names channels 0 to 15 only. -/
def Drive.at (d : Drive) (n : Nat) : DriveCh :=
  d.ch[n]?.getD { onTime := 0, code := 0, phase := 0, off := .clear }

/-- The runs in which exactly one of channels n and n+1 conducts, the same one throughout each run (R155). -/
def bridgeRuns (d : Drive) (n : Nat) : List CountRun :=
  meetRuns (d.at n).onRuns (d.at (n + 1)).offRuns ++ meetRuns (d.at n).offRuns (d.at (n + 1)).onRuns

/-- The runs on which record `i` is judged (R152 to R155). -/
def recRuns (d : Drive) (i : Fin 63) : List CountRun :=
  match recKind i with
  | .openCircuit | .shortHigh => d.ch[recChannel i].onRuns
  | .shortLow => d.ch[recChannel i].offRuns
  | .bridge => bridgeRuns d (recChannel i).val

/-- The failing condition of record `i`; `noCurrent` when Imax is 0 (R75, R152 to R155). -/
def recFails (noCurrent : Bool) (pol : Vector Word 25) (i : Fin 63) (w : ObsWindow) : Bool :=
  match recKind i with
  | .openCircuit => openFails noCurrent (recChannel i) w
  | .shortHigh => shortHighFails (shortThreshold (polShort pol)) (recChannel i) w
  | .shortLow => shortLowFails (recChannel i) w
  | .bridge => bridgeFails (recChannel i).val w

/-- The global enable and the detection mask mark of record `i` are both set (R156). -/
def recEnabled (pol : Vector Word 25) (drive : Vector Word 33) (i : Fin 63) : Bool :=
  polEnable pol (recKind i).place && driveMask drive (recChannel i).val (recKind i).place

/-- An off-forced mark was set in the cycle (R157); the marks once set stay to the next cycle start (R80). -/
def Drive.anyForced (d : Drive) : Bool := d.ch.toList.any fun c => c.offFrom.isSome

/-- The state around the output makes the judgement of record `i` unsound (R157). -/
def recUnsound (d : Drive) (supply : SupplyState) (i : Fin 63) : Bool :=
  d.anyForced || (supply == .low && (recKind i == .openCircuit || recKind i == .shortHigh))

/-- The sample record `i` receives at a cycle completion; `noCurrent` when Imax is 0 (R151 to R157). -/
def State.sampleAt (s : State) (noCurrent : Bool) (obs : CycleObs) (i : Fin 63) : Sample :=
  let runs := recRuns s.drive i
  if !recEnabled s.tables.policy.active s.tables.drive.active i then .noSample
  else if recUnsound s.drive s.supply.state i then .noSample
  else if !(runs.any fun r => r.qualifies) then .noSample
  else if failsIn obs runs (recFails noCurrent s.tables.policy.active i) then .fail
  else .pass

/-- The sample record `i` receives at a cycle completion: Imax follows the resistor at REF at all times (R75, R151). -/
def State.sampleOf (s : State) (obs : CycleObs) (i : Fin 63) : Sample :=
  s.sampleAt (imax Config.refOhms == 0) obs i

/-! ### Debounce -/

/-- One sample moves a record's state and run; `C` is the confirm count and `K` the clear count (R158, R159). -/
def debounce (C K : Nat) (r : FaultRec) (x : Sample) : FaultRec :=
  match x with
  | .noSample => r
  | .pass =>
    match r.state with
    | .clear => { r with run := 0 }
    | .suspect => { r with state := .clear, run := 0 }
    | .confirmed => if K = 1 then { r with state := .clear, run := 0 } else { r with state := .recovering, run := 1 }
    | .recovering =>
      if K ≤ r.run + 1 then { r with state := .clear, run := 0 } else { r with run := r.run + 1 }
  | .fail =>
    match r.state with
    | .clear => if C = 1 then { r with state := .confirmed, run := 0 } else { r with state := .suspect, run := 1 }
    | .suspect =>
      if C ≤ r.run + 1 then { r with state := .confirmed, run := 0 } else { r with run := r.run + 1 }
    | .confirmed => { r with run := 0 }
    | .recovering => { r with state := .confirmed, run := 0 }

/-- A record that goes from `a` to `b` is confirmed: it enters CONFIRMED from CLEAR or SUSPECT (R160). -/
def confirms (a b : RecState) : Bool := (a == .clear || a == .suspect) && b == .confirmed

/-- A record that goes from `a` to `b` has recovered: it enters CLEAR from CONFIRMED or RECOVERING (R161). -/
def recovers (a b : RecState) : Bool := (a == .confirmed || a == .recovering) && b == .clear

/-- The state of record `i` after the cycle completion's sample. -/
def State.sampled (s : State) (obs : CycleObs) (i : Fin 63) : FaultRec :=
  debounce (polConfirm s.tables.policy.active) (polClear s.tables.policy.active) s.diag.records[i] (s.sampleOf obs i)

/-- Record `i` is confirmed at the cycle completion. -/
def State.confirmsAt (s : State) (obs : CycleObs) (i : Fin 63) : Bool :=
  confirms s.diag.records[i].state (s.sampled obs i).state

/-- Record `i` joins the changed set at the cycle completion (R160, R161, R165). -/
def State.joinsAt (s : State) (obs : CycleObs) (i : Fin 63) : Bool :=
  (s.confirmsAt obs i || recovers s.diag.records[i].state (s.sampled obs i).state)
    && recPolicy s.tables.drive.active i != .quiet

/-- The diagnostics unit after a cycle completion: records, latches and changed set, all together (R151, R160 to R165). -/
def State.diagAfter (s : State) (obs : CycleObs) : Diag where
  records := Vector.ofFn fun i =>
    { s.sampled obs i with seen := s.diag.records[i].seen || s.confirmsAt obs i }
  latches := Vector.ofFn fun c =>
    match s.diag.latches[c] with
    | some r => some r
    | none => lowestRec fun i => s.confirmsAt obs i && affects (recPolicy s.tables.drive.active i) i c
  changed := Vector.ofFn fun i => s.diag.changed[i] || s.joinsAt obs i

/-! ### CLEAR-FAULTS and RESTART on the records -/

/-- Record `i` is selected by the channel mask and the kind mask (R166). -/
def selected (chanMask kindMask : Word) (i : Fin 63) : Bool :=
  kindMask.getLsbD (recKind i).place && chanMask.getLsbD (recChannel i).val

/-- The records after the first step of a CLEAR-FAULTS (R167). -/
def clearSelected (chanMask kindMask : Word) (recs : Vector FaultRec 63) : Vector FaultRec 63 :=
  Vector.ofFn fun i => if selected chanMask kindMask i then { state := .clear, run := 0, seen := false } else recs[i]

/-- The latch of channel `c` after a CLEAR-FAULTS: kept, or lifted and taken anew for the lowest record that still
stands and would affect the channel under its policy now (R167, R168). -/
def latchAfterClear (drive : Vector Word 33) (chanMask kindMask : Word) (recs : Vector FaultRec 63) (c : Fin 16)
    (latch : Option (Fin 63)) : Option (Fin 63) :=
  match latch with
  | none => none
  | some r =>
    if selected chanMask kindMask r then
      lowestRec fun i => recs[i].state.standing && affects (recPolicy drive i) i c
    else some r

/-- The diagnostics unit after the three steps on records and latches (R166 to R168). -/
def clearFaultsDiag (drive : Vector Word 33) (chanMask kindMask : Word) (d : Diag) : Diag :=
  let recs := clearSelected chanMask kindMask d.records
  { d with
    records := recs
    latches := Vector.ofFn fun c => latchAfterClear drive chanMask kindMask recs c d.latches[c] }

/-- A record at a RESTART (R172). -/
def FaultRec.restart (r : FaultRec) : FaultRec :=
  match r.state with
  | .clear | .suspect => { r with state := .clear, run := 0 }
  | .confirmed | .recovering => { r with state := .confirmed, run := 0 }

/-- How many records stand (R173). -/
def Diag.standingCount (d : Diag) : Nat := countRecs fun i => d.records[i].state.standing

/-- How many records have their seen mark set (R173). -/
def Diag.seenCount (d : Diag) : Nat := countRecs fun i => d.records[i].seen

/-- The isolation bitmap: bit c for a channel that holds a latch (R173). -/
def Diag.isolationBitmap (d : Diag) : Word :=
  wordOf (((List.finRange 16).map fun c => markAt d.latches[c].isSome c.val).sum)

end Sys2Proof.Machine
end

