-- ==== Sys2Proof/Machine/Flags.lean ====
section
/-! DEFINITION. The conditions other blocks read continuously: the six conditions of the fault line (R209) and the
asked-for flow state (R143). -/

namespace Sys2Proof.Machine

open Sys2Proof

/-- Reset condition: RSTN low, or a power-on reset in progress (R208, R209). -/
def State.fltReset (s : State) : Bool := s.pins.rstnLow || s.pins.phase != .up

/-- Fault condition: some record stands whose channel's policy in the active DRIVE section is not QUIET (R173, R209). -/
def State.fltFault (s : State) : Bool :=
  (List.finRange 63).any fun i =>
    s.diag.records[i].state.standing && recPolicy s.tables.drive.active i != .quiet

/-- Heat condition: band HOT or CRITICAL (R209). -/
def State.fltHeat (s : State) : Bool := s.thermal.band == .hot || s.thermal.band == .critical

/-- The node drives its FLT output low; otherwise the output is at high impedance (R209). -/
def State.fltLow (s : State) : Bool :=
  s.pins.vcc != .below15 &&
    (s.fltReset || s.parcels.startMark || s.fltFault || s.fltHeat || s.supply.state == .low
      || s.watch.state == .fallback)

/-- The flow state asked of the downstream neighbour for an occupancy of the pass buffer (R143). -/
def askedFor (occupancy : Nat) : Flow := if 2 ≤ occupancy then .hold else .go

/-- The flow state the node asks for now (R143). -/
def State.asked (s : State) : Flow := askedFor s.ret.pass.length

end Sys2Proof.Machine
end

