-- ==== Sys2Proof/Machine/Ops.lean ====
section
/-! DEFINITION. The named operations that several commands share: the DO queue, the local reply queue and the LOST mark,
the notices, and the guard that nothing happens during a power-on reset. -/

namespace Sys2Proof.Machine

open Sys2Proof

/-- The outcome of a command. -/
abbrev Result := Host.Outcome State Fault Refusal

/-- A command whose event cannot occur while a power-on reset lasts (R208): then it changes nothing. -/
def whenUp (s : State) (f : State → State) : Result :=
  .next (if s.pins.phase = .up then f s else s)

/-! ### The DO queue (R23) -/

/-- Capacity of the DO queue in symbols (R23). -/
def doCapacity : Nat := 16

/-- A sweep is in flight in these receiver states, and the outgoing sweep on DO is open (R24). -/
def Rx.inFlight (r : Rx) : Bool :=
  match r with
  | .waitStart | .skip => false
  | .header _ | .payload _ _ | .parcels _ _ _ | .trailer _ _ | .waitEnd _ _ _ => true

/-- A symbol was dropped: the framing of the sweep in flight, if there is one, is not exact (R23). -/
def Link.dropped (l : Link) : Link := if l.rx.inFlight then { l with framingExact := false } else l

/-- A symbol joins the tail of the DO queue, or is dropped when the queue is full (R23). -/
def Link.push (x : Symbol) (l : Link) : Link :=
  if l.doQueue.length < doCapacity then { l with doQueue := l.doQueue ++ [x] } else l.dropped

/-- A word of the outgoing sweep: it joins the DO queue and enters the outbound running check, or is dropped and does
not enter it (R23, R32). -/
def Link.sendWord (w : Word) (l : Link) : Link :=
  if l.doQueue.length < doCapacity then
    { l with doQueue := l.doQueue ++ [.word w], outCrc := crcWord l.outCrc w }
  else l.dropped

/-- The closing of the outgoing sweep: outbound check word, mark word, END, and the flow symbol that follows every END
(R28, R34, R37, R39, R45). -/
def Link.close (mark : Word) (asked : Flow) (l : Link) : Link :=
  let check := l.outCrc
  (((l.push (.word check)).push (.word mark)).push .endSym).push (.flow asked)

/-- A word taken from DI enters the inbound running check (R32). -/
def Link.feedIn (w : Word) (l : Link) : Link := { l with inCrc := crcWord l.inCrc w }

/-- A change of the asked-for flow state is sent at once when DO is between sweeps, else after the END (R45, R143). -/
def sendFlowChange (before : Flow) (s : State) : State :=
  if s.asked = before ∨ s.link.rx.inFlight = true then s else { s with link := s.link.push (.flow s.asked) }

/-! ### The local reply queue and the LOST mark (R132 to R135) -/

/-- Places in the local reply queue (R133). -/
def queueCapacity : Nat := 8

/-- A notice joins only below this occupancy (R133). -/
def noticeLimit : Nat := 6

/-- The LOST mark is set (R135). -/
def loseMessage (s : State) : State := { s with ret := { s.ret with lost := true } }

/-- A message joins the local reply queue with the source address and the LOST mark of this moment, and the mark is
cleared (R132, R135). -/
def joinMsg (x : Content) (s : State) : State :=
  { s with ret := { s.ret with
      queue := s.ret.queue ++ [{ source := s.link.address, lost := s.ret.lost, content := x }]
      lost := false } }

/-! ### Notices (R136 to R140) -/

/-- The kind of a message that is a notice. -/
def Msg.noticeKind (m : Msg) : Option NoticeKind :=
  match m.content with
  | .reply _ _ _ _ => none
  | .notice k _ => some k

/-- The pending condition of a notice kind (R136). -/
def noticePending (s : State) (k : NoticeKind) : Bool :=
  match k with
  | .fault => s.diag.changed.toList.any id
  | .thermal => s.ret.thermalFlag
  | .supply => s.ret.supplyFlag
  | .link => s.ret.linkFlag

/-- A notice of the kind joins the queue now (R137). -/
def noticeEligible (s : State) (k : NoticeKind) : Bool :=
  noticePending s k && !(s.ret.queue.any fun m => m.noticeKind == some k) && s.link.address != 255
    && s.ret.queue.length < noticeLimit

/-- The records of the changed set, ascending. -/
def Diag.changedList (d : Diag) : List (Fin 63) := (List.finRange 63).filter fun i => d.changed[i]

/-- The records a FAULT notice lists: the sixteen of lowest index (R139). -/
def Diag.listed (d : Diag) : List (Fin 63) := d.changedList.take 16

/-- The entry of a record in a FAULT notice (R139, R212). -/
def faultEntry (d : Diag) (i : Fin 63) : Word :=
  wordOf (i.val + markAt d.records[i].state.standing 8 + markAt d.records[i].seen 9)

/-- The body a notice takes at its joining (R139, R140, R212). -/
def noticeBody (s : State) (k : NoticeKind) : List Word :=
  match k with
  | .fault => s.diag.listed.map (faultEntry s.diag)
  | .thermal => [wordOf (s.thermal.band.value + 16 * s.thermal.highest.value)]
  | .supply => [wordOf s.supply.state.value]
  | .link => [wordOf (s.watch.state.value + 16 * s.ret.prevLink.value)]

/-- The pending state a notice consumes at its joining (R137, R139). -/
def consumePending (s : State) (k : NoticeKind) : State :=
  match k with
  | .fault =>
    { s with diag := { s.diag with
        changed := Vector.ofFn fun i => s.diag.changed[i] && !s.diag.listed.contains i } }
  | .thermal => { s with ret := { s.ret with thermalFlag := false } }
  | .supply => { s with ret := { s.ret with supplyFlag := false } }
  | .link => { s with ret := { s.ret with linkFlag := false } }

/-- A notice of kind `k` joins if it is eligible (R137). -/
def joinNotice (k : NoticeKind) (s : State) : State :=
  if noticeEligible s k then joinMsg (.notice k (noticeBody s k)) (consumePending s k) else s

/-- The notices that are eligible join, in the order FAULT, THERMAL, SUPPLY, LINK (R138). -/
def joinNotices (s : State) : State :=
  joinNotice .link (joinNotice .supply (joinNotice .thermal (joinNotice .fault s)))

/-- The record that an entry of a FAULT notice names (R212). -/
def entryRecord (w : Word) : Nat := bitsAt w 0 6

/-- What the flush does with one queued message: a reply is dropped, a notice is re-raised (R148). -/
def reraise (s : State) (m : Msg) : State :=
  match m.content with
  | .reply _ _ _ _ => s
  | .notice .fault body =>
    { s with diag := { s.diag with
        changed := Vector.ofFn fun i => s.diag.changed[i] || (body.map entryRecord).contains i.val } }
  | .notice .thermal _ => { s with ret := { s.ret with thermalFlag := true } }
  | .notice .supply _ => { s with ret := { s.ret with supplyFlag := true } }
  | .notice .link _ => { s with ret := { s.ret with linkFlag := true } }

/-- The flush of the local reply queue at a RESTART; the LOST mark is cleared (R148). -/
def flushQueue (s : State) : State :=
  let s1 := s.ret.queue.foldl reraise s
  { s1 with ret := { s1.ret with queue := [], lost := false } }

end Sys2Proof.Machine
end

