-- ==== Sys2Proof/Machine/Monitors.lean ====
section
/-! DEFINITION. The thermal and supply monitors (09_thermal_and_supply_monitors.md) and the link watch
(10_link_watch_holdover_and_fallback.md). -/

namespace Sys2Proof.Machine

open Sys2Proof

/-! ### Temperature -/

/-- The nearest degree to a temperature in thousandths of a degree; half way between two is a free value (R174). -/
def nearestDegree (milliC : Int) : Int :=
  let lower := milliC.fdiv 1000
  let rest := milliC.fmod 1000
  if rest < 500 then lower
  else if 500 < rest then lower + 1
  else if Config.roundHalfUp milliC then lower + 1 else lower

/-- The temperature reading (R174). -/
def readingOf (milliC : Int) : Int := max (-40) (min 200 (nearestDegree milliC))

/-- The entry threshold of a band is met (R175). -/
def Band.entered (pol : Vector Word 25) (t : Int) (b : Band) : Bool :=
  match b with
  | .normal => true
  | .warm => (polWarm pol : Int) ≤ t
  | .hot => (polHot pol : Int) ≤ t
  | .critical => 150 ≤ t

/-- The leave threshold of a band is not fallen below; NORMAL is never left (R175). -/
def Band.kept (pol : Vector Word 25) (t : Int) (b : Band) : Bool :=
  match b with
  | .normal => true
  | .warm => (polWarm pol : Int) - 5 ≤ t
  | .hot => (polHot pol : Int) - 5 ≤ t
  | .critical => 145 ≤ t

/-- The bands, highest first. -/
def bandsDown : List Band := [.critical, .hot, .warm, .normal]

/-- The rising band: the highest whose entry threshold the reading meets (R175). -/
def risingBand (pol : Vector Word 25) (t : Int) : Band :=
  (bandsDown.find? fun b => b.entered pol t).getD .normal

/-- The band after a sample (R175). -/
def newBand (pol : Vector Word 25) (t : Int) (b : Band) : Band :=
  let r := risingBand pol t
  if b.value < r.value then r
  else (bandsDown.find? fun x => x.value ≤ b.value && x.kept pol t).getD .normal

/-- The higher of two bands (R177). -/
def Band.max (a b : Band) : Band := if a.value < b.value then b else a

/-- A thermal sample: reading, band, highest-band mark, the cut at an entry into CRITICAL, and on a band change the
THERMAL flag and its notice (R174 to R180, R80). -/
def sampleTemperature (milliC : Int) (count : Nat) (s : State) : State :=
  let t := readingOf milliC
  let b := newBand s.tables.policy.active t s.thermal.band
  let s1 := { s with thermal := { reading := some t, band := b, highest := s.thermal.highest.max b } }
  if b = s.thermal.band then s1
  else
    let s2 := if b = .critical then { s1 with drive := cutOutputs count s1.drive } else s1
    joinNotices { s2 with ret := { s2.ret with thermalFlag := true } }

/-! ### Supply -/

/-- The supply threshold of a code, in mV (R182). -/
def supplyThreshold (code : Nat) : Nat :=
  match code with
  | 0 => 3000
  | 1 => 4500
  | 2 => 6000
  | _ => 7500

/-- The state a VLS voltage points to (R182). -/
def supplyPoints (pol : Vector Word 25) (vls : Nat) : SupplyState :=
  if vls < supplyThreshold (polSupply pol) then .low else .ok

/-- The supply monitor's evaluation at a cycle completion (R183). -/
def evaluateSupply (p : SupplyState) (x : Supply) : Supply :=
  if p = x.state then { x with agree := 0 }
  else if x.agree + 1 < 2 then { x with agree := x.agree + 1 }
  else { state := p, agree := 0, lowMark := x.lowMark || p == .low }

/-- A cycle completion: the samples of the cycle just ended, then the supply evaluation; a record that joins the
changed set or a change of supply state raises its notice (R81, R82, R151, R182 to R184). -/
def completeCycle (obs : CycleObs) (s : State) : State :=
  let diag := s.diagAfter obs
  let supply := evaluateSupply (supplyPoints s.tables.policy.active obs.vlsEnd) s.supply
  let changed := supply.state != s.supply.state
  let joins := (List.finRange 63).any fun i => s.joinsAt obs i
  let s1 := { s with
    diag := diag
    supply := supply
    drive := { s.drive with running := false }
    ret := { s.ret with supplyFlag := s.ret.supplyFlag || changed } }
  if changed || joins then joinNotices s1 else s1

/-! ### Link watch -/

/-- The watch timer as a refresh starts it (R188, R189). -/
def watchStart (pol : Vector Word 25) : Option Nat := if polW pol = 0 then none else some (polW pol * 10)

/-- A refresh from this state is a return, which sets the LINK flag (R189, R193). -/
def LinkState.returns (l : LinkState) : Bool :=
  match l with
  | .holdover | .fallback => true
  | .silent | .live => false

/-- The LINK flag is set and the state the link left is handed over (R136, R193). -/
def setLinkFlag (left : LinkState) (s : State) : State :=
  { s with ret := { s.ret with linkFlag := true, prevLink := left } }

/-- The link watch is refreshed by a good DATA or LATCH sweep end; the notice joins later in the same event (R189). -/
def refreshLink (s : State) : State :=
  let s1 := { s with watch := {
    state := .live, watchTimer := watchStart s.tables.policy.active, holdTimer := none } }
  if s.watch.state.returns then setLinkFlag s.watch.state s1 else s1

/-- Watch expiry (R191). -/
def expireWatch (s : State) : State :=
  let h := polH s.tables.policy.active
  if h = 0 then
    joinNotices (setLinkFlag .live
      { s with watch := { state := .fallback, watchTimer := none, holdTimer := none } })
  else
    { s with watch := {
        state := .holdover, watchTimer := none, holdTimer := if h = 255 then none else some (h * 100) } }

/-- Holdover expiry (R192). -/
def expireHoldover (s : State) : State :=
  joinNotices (setLinkFlag .holdover
    { s with watch := { state := .fallback, watchTimer := none, holdTimer := none } })

end Sys2Proof.Machine
end

