-- ==== Sys2Proof/Machine/TableStore.lean ====
section
/-! DEFINITION. The table store (05_table_sections_and_commit.md): validity, the swap, and the operations of the table
parcels on the sections. -/

namespace Sys2Proof.Machine

open Sys2Proof

/-! ### Validity (R90 to R94): each condition is charged to one word -/

/-- Word `o` of a copy of MAP offends (R91). -/
def mapOffends (v : Vector Word 49) (o : Nat) : Bool :=
  let n := mapCount v
  let zeroOffends := 24 < n || bitsAt (wordAt v 0) 5 11 != 0
  if o = 0 then zeroOffends
  else if zeroOffends then false
  else
    let j := (o - 1) / 2
    if n ≤ j then false
    else
      let e := mapEntry v j
      if o % 2 = 1 then
        bitsAt (wordAt v o) 12 3 != 0
          || (1 ≤ j && e.start < (mapEntry v (j - 1)).start + (mapEntry v (j - 1)).length)
      else
        bitsAt (wordAt v o) 5 3 != 0 || (wordAt v o).getLsbD 15
          || e.length < 1 || 16 < e.length || 4 < e.curve || 4096 < e.start + e.length || 16 < e.first + e.length
          || (List.range j).any fun i =>
              max e.first (mapEntry v i).first
                < min (e.first + e.length) ((mapEntry v i).first + (mapEntry v i).length)

/-- Word `o` of a copy of CURVES offends (R92). -/
def curvesOffends (v : Vector Word 68) (o : Nat) : Bool :=
  4096 < (wordAt v o).toNat || (o % 17 != 0 && (wordAt v o).toNat < (wordAt v (o - 1)).toNat)

/-- Word `o` of a copy of DRIVE offends: its spare bits are not zero (R93, R212). -/
def driveOffends (v : Vector Word 33) (o : Nat) : Bool :=
  if o = 32 then bitsAt (wordAt v o) 2 14 != 0
  else if o % 2 = 0 then bitsAt (wordAt v o) 10 6 != 0
  else bitsAt (wordAt v o) 8 8 != 0 || bitsAt (wordAt v o) 2 2 != 0

/-- Word `o` of a copy of POLICY offends (R94). -/
def policyOffends (v : Vector Word 25) (o : Nat) : Bool :=
  match o with
  | 0 => 255 < polW v
  | 1 => 255 < polH v
  | 2 => polWarm v < 60 || 140 < polWarm v
  | 3 => polHot v < 70 || 145 < polHot v || polHot v ≤ polWarm v
  | 4 => 256 < polDw v
  | 5 => 256 < polDh v || polDw v < polDh v
  | 6 => polConfirm v < 1 || polClear v < 1 || bitsAt (wordAt v 6) 8 8 != 0
  | 7 => bitsAt (wordAt v 7) 4 12 != 0
  | 8 => bitsAt (wordAt v 8) 6 10 != 0 || bitsAt (wordAt v 8) 2 2 != 0
  | _ => false

/-- The lowest offending offset below `size` (R90). -/
def lowestOffset (size : Nat) (offends : Nat → Bool) : Option Nat := (List.range size).find? offends

/-- The first offending word of the shadow copy of a section, none when the copy is valid (R90). -/
def Tables.firstOffending (t : Tables) (c : SecCode) : Option Nat :=
  match c with
  | .map => lowestOffset 49 (mapOffends t.map.shadow)
  | .curves => lowestOffset 68 (curvesOffends t.curves.shadow)
  | .drive => lowestOffset 33 (driveOffends t.drive.shadow)
  | .policy => lowestOffset 25 (policyOffends t.policy.shadow)

/-! ### One section -/

/-- The generation after one more swap: 65535 is followed by 1 (R102). -/
def nextGen (g : Word) : Word := if g = 0xFFFF then 1 else g + 1

/-- The swap of one section, made when it is pending (R102). -/
def Section.swap {n : Nat} (x : Section n) : Section n :=
  if x.pending then { x with active := x.shadow, gen := nextGen x.gen, pending := false } else x

/-- The data words of a WRITE stored in the shadow copy from an offset on (R96). -/
def Section.store {n : Nat} (off : Nat) (data : List Word) (x : Section n) : Section n :=
  { x with shadow := Vector.ofFn fun i =>
      if off ≤ i.val ∧ i.val < off + data.length then data.getD (i.val - off) 0 else x.shadow[i] }

/-- The active copy copied into the shadow copy (R98). -/
def Section.revert {n : Nat} (x : Section n) : Section n := { x with shadow := x.active }

/-- The pending mark set (R100). -/
def Section.accept {n : Nat} (x : Section n) : Section n := { x with pending := true }

/-- The pending mark cleared by a RESTART (R89). -/
def Section.cancel {n : Nat} (x : Section n) : Section n := { x with pending := false }

/-- The frozen mark set (R106). -/
def Section.freeze {n : Nat} (x : Section n) : Section n := { x with frozen := true }

/-- The frozen mark cleared (R107). -/
def Section.thaw {n : Nat} (x : Section n) : Section n := { x with frozen := false }

/-- The generation the section will hold once the next swap has been made (R100). -/
def Section.announced {n : Nat} (x : Section n) : Word := if x.pending then nextGen x.gen else x.gen

/-! ### The four sections -/

/-- One section changed. -/
def Tables.change (t : Tables) (c : SecCode) (f : (n : Nat) → Section n → Section n) : Tables :=
  match c with
  | .map => { t with map := f 49 t.map }
  | .curves => { t with curves := f 68 t.curves }
  | .drive => { t with drive := f 33 t.drive }
  | .policy => { t with policy := f 25 t.policy }

/-- Every section changed. -/
def Tables.changeAll (t : Tables) (f : (n : Nat) → Section n → Section n) : Tables where
  map := f 49 t.map
  curves := f 68 t.curves
  drive := f 33 t.drive
  policy := f 25 t.policy

/-- The number of words of a section (R85). -/
def SecCode.size (c : SecCode) : Nat :=
  match c with
  | .map => 49
  | .curves => 68
  | .drive => 33
  | .policy => 25

/-- The frozen mark of a section. -/
def Tables.frozen (t : Tables) (c : SecCode) : Bool :=
  match c with
  | .map => t.map.frozen
  | .curves => t.curves.frozen
  | .drive => t.drive.frozen
  | .policy => t.policy.frozen

/-- The pending mark of a section. -/
def Tables.pendingMark (t : Tables) (c : SecCode) : Bool :=
  match c with
  | .map => t.map.pending
  | .curves => t.curves.pending
  | .drive => t.drive.pending
  | .policy => t.policy.pending

/-- The generation of a section. -/
def Tables.gen (t : Tables) (c : SecCode) : Word :=
  match c with
  | .map => t.map.gen
  | .curves => t.curves.gen
  | .drive => t.drive.gen
  | .policy => t.policy.gen

/-- The words of a copy of a section (R97). -/
def Tables.copyWords (t : Tables) (c : SecCode) (shadow : Bool) : List Word :=
  match c with
  | .map => if shadow then t.map.shadow.toList else t.map.active.toList
  | .curves => if shadow then t.curves.shadow.toList else t.curves.active.toList
  | .drive => if shadow then t.drive.shadow.toList else t.drive.active.toList
  | .policy => if shadow then t.policy.shadow.toList else t.policy.active.toList

/-- The swap of every pending section at a header acceptance (R102). -/
def Tables.swap (t : Tables) : Tables := t.changeAll fun _ x => x.swap

/-- Every pending mark cleared (R89). -/
def Tables.cancel (t : Tables) : Tables := t.changeAll fun _ x => x.cancel

/-- Each section of a list changed. -/
def Tables.changeEach (t : Tables) (cs : List SecCode) (f : (n : Nat) → Section n → Section n) : Tables :=
  cs.foldl (fun u c => u.change c f) t

/-- The four generations an ACCEPTED announces (R100). -/
def Tables.announcedGens (t : Tables) : List Word :=
  [t.map.announced, t.curves.announced, t.drive.announced, t.policy.announced]

/-- The four generations (R129). -/
def Tables.gens (t : Tables) : List Word := [t.map.gen, t.curves.gen, t.drive.gen, t.policy.gen]

/-- Frozen set and pending set in one word (R129, R212). -/
def Tables.marksWord (t : Tables) : Word :=
  wordOf (markAt t.map.frozen 0 + markAt t.curves.frozen 1 + markAt t.drive.frozen 2 + markAt t.policy.frozen 3
    + markAt t.map.pending 8 + markAt t.curves.pending 9 + markAt t.drive.pending 10 + markAt t.policy.pending 11)

/-! ### The table parcels (R96 to R107) -/

/-- The result code and body with which a parcel's own rule answers. -/
structure Answer where
  code : ResultCode
  body : List Word
deriving DecidableEq, Repr

/-- The body word that names a section (R212). -/
def sectionWord (c : SecCode) : Word := wordOf c.value

/-- WRITE (R96): section and offset in body word 0, then the data words. -/
def Tables.write (t : Tables) (w0 : Word) (data : List Word) : Tables × Answer :=
  let c := sectionOf w0
  let off := offsetOf w0
  if t.frozen c then (t, ⟨.refusedFrozen, [sectionWord c]⟩)
  else if t.pendingMark c then (t, ⟨.refusedPending, [sectionWord c]⟩)
  else if c.size < off + data.length then (t, ⟨.refusedRange, []⟩)
  else (t.change c fun _ x => x.store off data, ⟨.done, []⟩)

/-- READ (R97): section, copy and offset in body word 0, count in body word 1. -/
def Tables.read (t : Tables) (w0 w1 : Word) : Answer :=
  let c := sectionOf w0
  let off := offsetOf w0
  let count := w1.toNat
  if count = 0 ∨ 32 < count ∨ c.size < off + count then ⟨.refusedRange, []⟩
  else ⟨.done, ((t.copyWords c (namesShadow w0)).drop off).take count⟩

/-- The first refusal of a DISCARD over a list of sections, none when every section passes (R98). -/
def Tables.discardRefusal (t : Tables) (cs : List SecCode) : Option Answer :=
  match cs with
  | [] => none
  | c :: rest =>
    if t.frozen c then some ⟨.refusedFrozen, [sectionWord c]⟩
    else if t.pendingMark c then some ⟨.refusedPending, [sectionWord c]⟩
    else t.discardRefusal rest

/-- DISCARD (R98). -/
def Tables.discard (t : Tables) (cs : List SecCode) : Tables × Answer :=
  match t.discardRefusal cs with
  | some a => (t, a)
  | none => (t.changeEach cs fun _ x => x.revert, ⟨.done, []⟩)

/-- The first refusal of a COMMIT over a list of sections, none when every section passes (R99). -/
def Tables.commitRefusal (t : Tables) (cs : List SecCode) : Option Answer :=
  match cs with
  | [] => none
  | c :: rest =>
    if t.frozen c then some ⟨.refusedFrozen, [sectionWord c]⟩
    else if t.pendingMark c then some ⟨.refusedPending, [sectionWord c]⟩
    else
      match t.firstOffending c with
      | some o => some ⟨.refusedInvalid, [sectionWord c, wordOf o]⟩
      | none => t.commitRefusal rest

/-- COMMIT (R99, R100). -/
def Tables.commit (t : Tables) (cs : List SecCode) : Tables × Answer :=
  match cs with
  | [] => (t, ⟨.done, []⟩)
  | _ :: _ =>
    match t.commitRefusal cs with
    | some a => (t, a)
    | none =>
      let u := t.changeEach cs fun _ x => x.accept
      (u, ⟨.accepted, u.announcedGens⟩)

/-- FREEZE (R106). -/
def Tables.freeze (t : Tables) (cs : List SecCode) : Tables × Answer :=
  (t.changeEach cs fun _ x => x.freeze, ⟨.done, []⟩)

/-- THAW (R107): section in body word 0, generation g in body word 1. -/
def Tables.thaw (t : Tables) (w0 g : Word) : Tables × Answer :=
  let c := sectionOf w0
  if !t.frozen c then (t, ⟨.done, []⟩)
  else if g = t.gen c then (t.change c fun _ x => x.thaw, ⟨.done, []⟩)
  else (t, ⟨.refusedGen, [sectionWord c, t.gen c]⟩)

end Sys2Proof.Machine
end

