-- ==== Sys2Proof/Machine/ParcelEngine.lean ====
section
/-! DEFINITION. The parcel engine (06_management_parcels.md): filtering and storing as parcels arrive, the sweep ends, and
the execution of the parcel at the head of the buffer. The rule of each kind stands in ParcelRules.lean. -/

namespace Sys2Proof.Machine

open Sys2Proof

/-! ### Arrival (R109 to R113) -/

/-- Places in the parcel buffer (R111). -/
def bufferPlaces : Nat := 8

/-- Body words the buffer holds (R111). -/
def bufferWords : Nat := 256

/-- A parcel's standing by its target and the node address, none when it is filtered out (R109). -/
def filterParcel (address target : Byte) : Option Standing :=
  if target = 255 then some .broadcast
  else if target = address then some .addressed
  else none

/-- Body words reserved in the buffer: L of every parcel held (R111, R112). -/
def reservedWords (b : List Parcel) : Nat := (b.map fun p => p.len).sum

/-- The second and third condition of R112. -/
def fitsBuffer (b : List Parcel) (len : Nat) : Bool :=
  b.length < bufferPlaces && reservedWords b + len ≤ bufferWords

/-- An account with nothing unstored (R26, R113). -/
def Account.fresh : Account := { closed := false, unstored := 0, firstTag := none }

/-- One more filtered-in parcel that is not stored (R113). -/
def Account.overflow (a : Account) (tag : Byte) (std : Standing) : Account :=
  { closed := true, unstored := a.unstored + 1
    firstTag := match a.firstTag with
      | some t => some t
      | none => if std = .addressed then some tag else none }

/-- The kind-and-length word of a filtered-in parcel has arrived: it is stored if it may be and fits, and overflows
otherwise; the Bool says whether it is stored (R112, R113). -/
def storeParcel (p : Parcel) (e : Parcels) : Parcels × Bool :=
  match e.account with
  | none => (e, false)
  | some a =>
    if !a.closed && fitsBuffer e.buffer p.len then ({ e with buffer := e.buffer ++ [p] }, true)
    else ({ e with account := some (a.overflow p.tag p.standing) }, false)

/-- A body word stored after the parcel at the tail of the buffer (R112). -/
def storeBodyWord (w : Word) (b : List Parcel) : List Parcel :=
  match b with
  | [] => []
  | [p] => [{ p with body := p.body ++ [w] }]
  | p :: q :: rest => p :: storeBodyWord w (q :: rest)

/-! ### Sweep ends (R114, R115) -/

/-- Every parcel of the ended sweep becomes executable (R114). -/
def makeExecutable (b : List Parcel) : List Parcel := b.map fun p => { p with executable := true }

/-- The sweep's own parcels removed: those that are not executable (R115). -/
def removeUnexecutable (b : List Parcel) : List Parcel := b.filter fun p => p.executable

/-- The PARCEL-OVERFLOW reply owed at a good sweep end joins, or is lost when no slot is free (R114, R120). -/
def queueOverflowReply (acct : Option Account) (s : State) : State :=
  match acct with
  | none => s
  | some a =>
    match a.firstTag with
    | none => s
    | some tag =>
      if s.ret.queue.length < queueCapacity then
        joinMsg (.reply tag .parcelOverflow false [wordOf a.unstored]) s
      else loseMessage s

/-- A PARCEL-OVERFLOW reply is owed (R113). -/
def owesOverflow (acct : Option Account) : Bool :=
  match acct with
  | none => false
  | some a => a.firstTag.isSome

/-! ### Execution (R117 to R124) -/

/-- The reply of an addressed parcel joins the queue (R122, R132). -/
def reply (p : Parcel) (code : ResultCode) (rep : Bool) (body : List Word) (s : State) : State :=
  joinMsg (.reply p.tag code rep body) s

/-- The stored result of a parcel that repeats an entry of the history (R118 step 4, R123). -/
def repeatedResult (k : ParcelKind) (tag : Byte) (h : List HistEntry) : Option ResultCode :=
  if tag = 0 ∨ k.recorded = false then none
  else (h.find? fun e => e.tag == tag && e.kind == k).map fun e => e.code

/-- Entries in the duplicate history (R123). -/
def historyPlaces : Nat := 4

/-- The entry of an executed parcel added as the newest (R124). -/
def addHistory (k : ParcelKind) (tag : Byte) (code : ResultCode) (h : List HistEntry) : List HistEntry :=
  if tag = 0 ∨ k.recorded = false then h
  else
    let e : HistEntry := { tag := tag, kind := k, code := code }
    if h.any fun x => x.tag == tag then (h.filter fun x => x.tag != tag) ++ [e]
    else if h.length < historyPlaces then h ++ [e]
    else h.drop 1 ++ [e]

/-- The rule of a parcel kind: its effect, and the result code and body of its reply. -/
abbrev ParcelRule := Parcel → State → State × Answer

/-- The parcel leaves the buffer at its execution (R117). -/
def takeParcel (rest : List Parcel) (s : State) : State := { s with parcels := { s.parcels with buffer := rest } }

/-- Step 5 of R118: the rule's effect, the entry in the history, the reply. -/
def executeAddressed (k : ParcelKind) (rule : ParcelRule) (p : Parcel) (s : State) : State :=
  let r := rule p s
  reply p r.2.code false r.2.body
    { r.1 with parcels := { r.1.parcels with history := addHistory k p.tag r.2.code r.1.parcels.history } }

/-- The steps of R118 on a parcel of a known kind, once it has left the buffer. -/
def addressedSteps (k : ParcelKind) (rule : ParcelRule) (p : Parcel) (s : State) : State :=
  if queueCapacity ≤ s.ret.queue.length then loseMessage s
  else if k.suits p.len = false then reply p .badLength false [] s
  else
    match repeatedResult k p.tag s.parcels.history with
    | some code => reply p code true [] s
    | none => executeAddressed k rule p s

/-- The steps of R121 on a broadcast parcel of a known kind, once it has left the buffer. -/
def broadcastSteps (k : ParcelKind) (rule : ParcelRule) (p : Parcel) (s : State) : State :=
  if k.runsBroadcast = true ∧ k.suits p.len = true then (rule p s).1 else s

/-- The execution of the parcel at the head of the buffer, when it is executable and of kind `k`; no such parcel, no
event (R117). -/
def runParcel (k : ParcelKind) (rule : ParcelRule) (s : State) : State :=
  match s.parcels.buffer with
  | [] => s
  | p :: rest =>
    if p.executable = true ∧ parcelKindOf p.kind = some k then
      match p.standing with
      | .addressed => addressedSteps k rule p (takeParcel rest s)
      | .broadcast => broadcastSteps k rule p (takeParcel rest s)
    else s

/-- The execution of a parcel of unknown kind (R118 steps 1 and 2, R121, R216). -/
def runUnknown (s : State) : State :=
  match s.parcels.buffer with
  | [] => s
  | p :: rest =>
    if p.executable = true ∧ parcelKindOf p.kind = none then
      let s1 := takeParcel rest s
      match p.standing with
      | .addressed =>
        if queueCapacity ≤ s1.ret.queue.length then loseMessage s1 else reply p .badKind false [] s1
      | .broadcast => s1
    else s

end Sys2Proof.Machine
end

