-- ==== Sys2Proof/Machine/ParcelRules.lean ====
section
/-! DEFINITION. The rule of each parcel kind: PING, STATUS, the table parcels, CAPTURE, READ-SNAPSHOT, ACK-START,
CLEAR-FAULTS and RESTART, and the commands that execute them. -/

namespace Sys2Proof.Machine

open Sys2Proof

/-! ### PING and STATUS (R128, R129) -/

/-- The address of the node as a word. -/
def addressWord (s : State) : Word := wordOf s.link.address.toNat

/-- PING (R128). -/
def pingRule : ParcelRule := fun _ s => (s, ⟨.done, [addressWord s, partCode]⟩)

/-- STATUS word 0, snapshot word 1: address, start mark, cause (R129, R212). -/
def startWord (s : State) : Word :=
  wordOf (s.link.address.toNat + markAt s.parcels.startMark 15 + markAt (s.parcels.cause == .restart) 14)

/-- STATUS word 1, snapshot word 2: link state, band, highest band, supply state, supply-low mark (R129, R212). -/
def monitorWord (s : State) : Word :=
  wordOf (s.watch.state.value + 16 * s.thermal.band.value + 256 * s.thermal.highest.value
    + markAt (s.supply.state == .low) 12 + markAt s.supply.lowMark 13)

/-- STATUS words 0 to 7, snapshot words 1 to 8 (R129, R203). -/
def commonWords (s : State) : List Word :=
  [startWord s, monitorWord s] ++ s.tables.gens ++ [s.tables.marksWord, s.diag.isolationBitmap]

/-- The ten words of a STATUS body (R129). -/
def statusBody (s : State) : List Word :=
  commonWords s ++ [wordOf s.diag.standingCount, wordOf s.diag.seenCount]

/-- STATUS (R129). -/
def statusRule : ParcelRule := fun _ s => (s, ⟨.done, statusBody s⟩)

/-! ### Table parcels (R95 to R107) -/

/-- WRITE (R96). -/
def writeRule : ParcelRule := fun p s =>
  let r := s.tables.write (p.bodyAt 0) (p.body.drop 1)
  ({ s with tables := r.1 }, r.2)

/-- READ (R97). -/
def readRule : ParcelRule := fun p s => (s, s.tables.read (p.bodyAt 0) (p.bodyAt 1))

/-- COMMIT (R99, R100). -/
def commitRule : ParcelRule := fun p s =>
  let r := s.tables.commit (sectionSet (p.bodyAt 0))
  ({ s with tables := r.1 }, r.2)

/-- DISCARD (R98). -/
def discardRule : ParcelRule := fun p s =>
  let r := s.tables.discard (sectionSet (p.bodyAt 0))
  ({ s with tables := r.1 }, r.2)

/-- FREEZE (R106). -/
def freezeRule : ParcelRule := fun p s =>
  let r := s.tables.freeze (sectionSet (p.bodyAt 0))
  ({ s with tables := r.1 }, r.2)

/-- THAW (R107). -/
def thawRule : ParcelRule := fun p s =>
  let r := s.tables.thaw (p.bodyAt 0) (p.bodyAt 1)
  ({ s with tables := r.1 }, r.2)

/-! ### Snapshot (R202 to R207) and start mark (R200) -/

/-- The held-mark bitmap (R65, R203). -/
def heldBitmap (v : Vector LevelCh 16) : Word :=
  wordOf (((List.finRange 16).map fun c => markAt v[c].heldMark c.val).sum)

/-- The three words of a channel (R204, R212). -/
def channelWords (s : State) (c : Fin 16) : List Word :=
  [ s.displayed c, wordOf (s.effOnTime c),
    wordOf ((driveCode s.tables.drive.active c.val).toNat + 256 * (drivePhase s.tables.drive.active c.val).val
      + 4096 * curveCode s.activeMap c.val) ]

/-- A fault record in four bits: state in the low two, seen mark in the third (R212). -/
def recordNibble (r : FaultRec) : Nat := r.state.value + markAt r.seen 2

/-- Snapshot word 58 + j: records 4j to 4j + 3, and 0 where there is no record (R204, R212). -/
def recordWord (recs : Vector FaultRec 63) (j : Nat) : Word :=
  wordOf (((List.range 4).map fun i =>
    match recs[4 * j + i]? with
    | some r => recordNibble r * 16 ^ i
    | none => 0).sum)

/-- The 74 words of the image (R203, R204). -/
def imageWords (s : State) : List Word :=
  [s.link.lastGood] ++ commonWords s ++ [heldBitmap s.levels]
    ++ (List.finRange 16).flatMap (channelWords s)
    ++ (List.range 16).map (recordWord s.diag.records)

/-- CAPTURE (R202). -/
def captureRule : ParcelRule := fun _ s =>
  ({ s with snap := { image := Vector.ofFn fun i => (imageWords s).getD i.val 0, valid := true } }, ⟨.done, []⟩)

/-- The answer of READ-SNAPSHOT (R207). -/
def snapshotAnswer (x : Snap) (w0 w1 : Word) : Answer :=
  let off := w0.toNat
  let count := w1.toNat
  if x.valid = false then ⟨.refusedNone, []⟩
  else if count = 0 ∨ 32 < count ∨ 74 < off + count then ⟨.refusedRange, []⟩
  else ⟨.done, (x.image.toList.drop off).take count⟩

/-- READ-SNAPSHOT (R207). -/
def readSnapshotRule : ParcelRule := fun p s => (s, snapshotAnswer s.snap (p.bodyAt 0) (p.bodyAt 1))

/-- ACK-START (R200). -/
def ackStartRule : ParcelRule := fun _ s =>
  ({ s with parcels := { s.parcels with startMark := false } }, ⟨.done, []⟩)

/-! ### CLEAR-FAULTS (R166 to R169) -/

/-- The place of THERMAL in the kind mask. -/
def thermalPlace : Nat := 4

/-- The place of SUPPLY in the kind mask. -/
def supplyPlace : Nat := 5

/-- CLEAR-FAULTS (R166 to R169): channel mask in body word 0, kind mask in body word 1. -/
def clearFaultsRule : ParcelRule := fun p s =>
  let chanMask := p.bodyAt 0
  let kindMask := p.bodyAt 1
  ({ s with
      diag := clearFaultsDiag s.tables.drive.active chanMask kindMask s.diag
      thermal := if kindMask.getLsbD thermalPlace then { s.thermal with highest := s.thermal.band } else s.thermal
      supply := if kindMask.getLsbD supplyPlace then { s.supply with lowMark := s.supply.state == .low } else s.supply },
    ⟨.done, []⟩)

/-! ### RESTART (R125 to R127) -/

/-- A parcel partly arrived is not stored further (R125). One of which only the address word has arrived has not been
stored at all (R112): it counts as a later parcel and is stored at its kind-and-length word. DEDUCED, log entry 25, unsafe. -/
def ParcelPos.unstore (x : ParcelPos) : ParcelPos :=
  match x with
  | .addressWord => .addressWord
  | .kindLenWord target tag std => .kindLenWord target tag std
  | .bodyWord left _ => .bodyWord left false

/-- The receiver's place in the sweep after a RESTART: as before, but for the storing of a partly arrived parcel. -/
def Rx.unstore (r : Rx) : Rx :=
  match r with
  | .parcels sw left pos => .parcels sw left pos.unstore
  | .waitStart => .waitStart
  | .header got => .header got
  | .payload sw k => .payload sw k
  | .trailer sw c => .trailer sw c
  | .waitEnd sw c m => .waitEnd sw c m
  | .skip => .skip

/-- The restart values of every block, the queue flushed, before any reply or notice joins (R126, R43, R64, R89, R125,
R148, R172, R198, R199, R201). -/
def restartBlocks (s0 : State) : State :=
  let s := flushQueue s0
  { s with
    link := { s.link with rx := s.link.rx.unstore, voidMark := s.link.voidMark || s.link.rx.inFlight }
    tables := s.tables.cancel
    parcels := {
      buffer := [], history := [], startMark := true, cause := .restart
      account := match s.parcels.account with | some _ => some Account.fresh | none => none }
    levels := eachChannel LevelCh.restart s.levels
    diag := { s.diag with records := Vector.ofFn fun i => s.diag.records[i].restart }
    watch := { state := .silent, watchTimer := none, holdTimer := none }
    snap := { s.snap with valid := false } }

/-- The execution of a RESTART at the head of the buffer (R125 to R127): one of correct length needs no slot, and its
reply is the first entry of the flushed queue; the re-raised notices join behind it (R148). -/
def runRestart (s : State) : State :=
  match s.parcels.buffer with
  | [] => s
  | p :: rest =>
    if p.executable = true ∧ parcelKindOf p.kind = some .restart then
      match p.standing with
      | .addressed =>
        if ParcelKind.restart.suits p.len = true then joinNotices (reply p .done false [] (restartBlocks s))
        else addressedSteps .restart (fun _ x => (x, ⟨.done, []⟩)) p (takeParcel rest s)
      | .broadcast =>
        if ParcelKind.restart.suits p.len = true then joinNotices (restartBlocks s) else takeParcel rest s
    else s

/-! ### The parcel commands -/

/-- PING. -/
def execPing (s : State) : Result := whenUp s (runParcel .ping pingRule)

/-- STATUS. -/
def execStatus (s : State) : Result := whenUp s (runParcel .status statusRule)

/-- WRITE. -/
def execWrite (s : State) : Result := whenUp s (runParcel .write writeRule)

/-- READ. -/
def execRead (s : State) : Result := whenUp s (runParcel .read readRule)

/-- COMMIT. -/
def execCommit (s : State) : Result := whenUp s (runParcel .commit commitRule)

/-- DISCARD. -/
def execDiscard (s : State) : Result := whenUp s (runParcel .discard discardRule)

/-- FREEZE. -/
def execFreeze (s : State) : Result := whenUp s (runParcel .freeze freezeRule)

/-- THAW. -/
def execThaw (s : State) : Result := whenUp s (runParcel .thaw thawRule)

/-- CAPTURE. -/
def execCapture (s : State) : Result := whenUp s (runParcel .capture captureRule)

/-- READ_SNAPSHOT. -/
def execReadSnapshot (s : State) : Result := whenUp s (runParcel .readSnapshot readSnapshotRule)

/-- ACK_START. -/
def execAckStart (s : State) : Result := whenUp s (runParcel .ackStart ackStartRule)

/-- CLEAR_FAULTS. -/
def execClearFaults (s : State) : Result := whenUp s (runParcel .clearFaults clearFaultsRule)

/-- RESTART. -/
def execRestart (s : State) : Result := whenUp s runRestart

/-- UNKNOWN_KIND_PARCEL. -/
def execUnknownKindParcel (s : State) : Result := whenUp s runUnknown

end Sys2Proof.Machine
end

