-- ==== Sys2Proof/Machine/Receiver.lean ====
section
/-! DEFINITION. The link receiver/forwarder (02_sweeps_and_forwarding.md): START, the words of a sweep, END, the two
kinds of sweep end, and the commands on DI and DO. -/

namespace Sys2Proof.Machine

open Sys2Proof

/-- A change of the link receiver's own state. -/
def onLink (f : Link → Link) (s : State) : State := { s with link := f s.link }

/-- The receiver enters a state. -/
def Link.enter (r : Rx) (l : Link) : Link := { l with rx := r }

/-! ### Sweep ends (R34 to R36) -/

/-- The verdict at END in WAIT-END (R34); the header of a sweep in flight past HEADER was valid. -/
def goodVerdict (l : Link) (checkOk clean : Bool) : Bool := l.framingExact && checkOk && clean && !l.voidMark

/-- A bad sweep end (R36, R53, R115). -/
def badSweepEnd (sw : Sweep) (s : State) : State :=
  { s with
    levels := levelsAtBadEnd sw.kind s.levels
    parcels := { s.parcels with buffer := removeUnexecutable s.parcels.buffer, account := none } }

/-- The link watch is refreshed by these kinds (R35, R189, R190). -/
def SweepKind.refreshes (k : SweepKind) : Bool :=
  match k with
  | .data | .latch => true
  | .manage | .enum => false

/-- The address taken at a good ENUM sweep end (R41). -/
def takeAddress (sw : Sweep) (l : Link) : Link :=
  match sw.kind, sw.enumAddr with
  | .enum, some a => { l with address := a }
  | .enum, none => l
  | .data, _ => l
  | .latch, _ => l
  | .manage, _ => l

/-- A good sweep end, up to the messages that join the local reply queue at it: levels, link watch, address, last good
sweep number, executable parcels, the account closed (R35, R41, R42, R114, R189). -/
def goodEffects (sw : Sweep) (s : State) : State :=
  let s1 := { s with
    levels := levelsAtGoodEnd sw.kind sw.hold s.levels
    link := { takeAddress sw s.link with lastGood := sw.num }
    parcels := { s.parcels with buffer := makeExecutable s.parcels.buffer, account := none } }
  if sw.kind.refreshes then refreshLink s1 else s1

/-- A notice may become eligible at the sweep end of `sw`, seen from the state before it: the refresh is a return and
sets the LINK flag, or an ENUM gives an unaddressed node an address (R137). -/
def noticesDue (sw : Sweep) (s : State) : Bool :=
  (sw.kind == .enum && s.link.address == 255) || (sw.kind.refreshes && s.watch.state.returns)

/-- A good sweep end (R35). The PARCEL-OVERFLOW reply and a notice of the same event may join in either order (R134):
when both are due the order is a free value. -/
def goodSweepEnd (sw : Sweep) (s : State) : State :=
  let acct := s.parcels.account
  let s1 := goodEffects sw s
  if noticesDue sw s then
    if owesOverflow acct then
      let s2 := { s1 with freeUses := s1.freeUses + 1 }
      if Config.replyJoinsFirst s1.freeUses then joinNotices (queueOverflowReply acct s2)
      else queueOverflowReply acct (joinNotices s2)
    else joinNotices s1
  else queueOverflowReply acct s1

/-! ### START (R25, R39, R40) -/

/-- START begins a sweep (R25). The framing is marked exact before START joins the DO queue, so that a START dropped
from a full queue leaves the new sweep's framing not exact (R23, R34; log entry 13). -/
def Link.begin (l : Link) : Link :=
  { l with inCrc := crcInit, outCrc := crcInit, voidMark := false, framingExact := true, rx := .header [] }
    |>.push .startSym

/-- START on DI (R25, R39, R40). -/
def startOnDi (s : State) : State :=
  let closed := onLink (Link.close poisonMark s.asked) s
  match s.link.rx with
  | .waitStart => onLink Link.begin s
  | .skip => onLink Link.begin s
  | .header _ => onLink Link.begin closed
  | .payload sw _ => onLink Link.begin (badSweepEnd sw closed)
  | .parcels sw _ _ => onLink Link.begin (badSweepEnd sw closed)
  | .trailer sw _ => onLink Link.begin (badSweepEnd sw closed)
  | .waitEnd sw _ _ => onLink Link.begin (badSweepEnd sw closed)

/-! ### Header (R26 to R28) -/

/-- The receiver state after header acceptance (R27). -/
def Sweep.afterHeader (sw : Sweep) : Rx :=
  if 0 < sw.p then .payload sw 0 else if 0 < sw.q then .parcels sw sw.q .addressWord else .trailer sw none

/-- Header acceptance (R26, R27): the swap first, so that the map taken is the one then active (R5); the staged marks
for a DATA sweep (R48); the account opened; then on DO the forwarded payload count of a DATA sweep, recorded too (R13,
R44), or P as received. -/
def acceptHeader (k : SweepKind) (w0 w1 w2 : Word) (s : State) : State :=
  let tables := s.tables.swap
  let map := mapEntries tables.map.active
  let p := w2.toNat
  let sw : Sweep := {
    kind := k, hold := holdOf w0, p := p, q := qOf w0, num := w1, map := map, enumAddr := none }
  let sent := if k = .data then forwardedCount map p else p
  { s with
    tables := tables
    levels := if k = .data then eachChannel LevelCh.unstage s.levels else s.levels
    parcels := { s.parcels with account := some Account.fresh }
    link := { ((s.link.feedIn w2).sendWord (wordOf sent)).enter sw.afterHeader with
      fwdCount := if k = .data then sent else s.link.fwdCount } }

/-- An invalid header is forwarded and closed at once (R28). -/
def rejectHeader (w2 : Word) (s : State) : State :=
  onLink (fun l => (((l.feedIn w2).sendWord w2).close poisonMark s.asked).enter .skip) s

/-- A word in HEADER (R26). -/
def headerWord (got : List Word) (w : Word) (s : State) : State :=
  match got with
  | [] => onLink (fun l => ((l.feedIn w).sendWord w).enter (.header [w])) s
  | [w0] => onLink (fun l => ((l.feedIn w).sendWord w).enter (.header [w0, w])) s
  | w0 :: w1 :: _ =>
    match judgeHeader w0 w with
    | some k => acceptHeader k w0 w1 w s
    | none => rejectHeader w s

/-! ### Payload (R29, R30) -/

/-- The receiver state after the payload word at position `k` (R29). -/
def Sweep.afterPayload (sw : Sweep) (k : Nat) : Rx :=
  if k + 1 < sw.p then .payload sw (k + 1)
  else if 0 < sw.q then .parcels sw sw.q .addressWord
  else .trailer sw none

/-- A payload word of a DATA sweep at position `k`: matched, fed, forwarded or removed (R9, R12, R29, R49). -/
def dataWord (sw : Sweep) (k : Nat) (w : Word) (s : State) : State :=
  let next := sw.afterPayload k
  match coveringEntry sw.map k with
  | none => onLink (fun l => ((l.feedIn w).sendWord w).enter next) s
  | some e =>
    let s1 := { s with levels := stageChannel (e.first + (k - e.start)) w s.levels }
    if e.take then onLink (fun l => (l.feedIn w).enter next) s1
    else onLink (fun l => ((l.feedIn w).sendWord w).enter next) s1

/-- The address word of an ENUM sweep: A in bits 7..0, sent on rewritten (R30, R213). -/
def enumWord (sw : Sweep) (k : Nat) (w : Word) (s : State) : State :=
  let a := loByte w
  let sw1 := { sw with enumAddr := some a }
  onLink (fun l => ((l.feedIn w).sendWord (wordOf (enumNext a).toNat)).enter (sw1.afterPayload k)) s

/-- A word in PAYLOAD (R29); LATCH and MANAGE sweeps have none (R22), and one would be forwarded unchanged. -/
def payloadWord (sw : Sweep) (k : Nat) (w : Word) (s : State) : State :=
  match sw.kind with
  | .data => dataWord sw k w s
  | .enum => enumWord sw k w s
  | .latch => onLink (fun l => ((l.feedIn w).sendWord w).enter (sw.afterPayload k)) s
  | .manage => onLink (fun l => ((l.feedIn w).sendWord w).enter (sw.afterPayload k)) s

/-! ### Parcels (R31, R109 to R113) -/

/-- The receiver state after the last word of a parcel, `left` parcels counting the one just ended (R31). -/
def Sweep.afterParcel (sw : Sweep) (left : Nat) : Rx :=
  if 1 < left then .parcels sw (left - 1) .addressWord else .trailer sw none

/-- The receiver state after the kind-and-length word of a parcel with `len` body words. -/
def Sweep.afterKindLen (sw : Sweep) (left len : Nat) (stored : Bool) : Rx :=
  if len = 0 then sw.afterParcel left else .parcels sw left (.bodyWord len stored)

/-- The parcel as its kind-and-length word has given it (R111). -/
def arrivingParcel (sw : Sweep) (target tag : Byte) (std : Standing) (w : Word) : Parcel where
  target := target
  tag := tag
  kind := hiByte w
  len := (loByte w).toNat
  body := []
  sweepNum := sw.num
  standing := std
  executable := false

/-- A word in PARCELS: forwarded unchanged, fed into both checks, and presented to the parcel engine (R31). -/
def parcelWord (sw : Sweep) (left : Nat) (pos : ParcelPos) (w : Word) (s : State) : State :=
  let fwd := fun (r : Rx) (l : Link) => ((l.feedIn w).sendWord w).enter r
  match pos with
  | .addressWord =>
    onLink (fwd (.parcels sw left
      (.kindLenWord (hiByte w) (loByte w) (filterParcel s.link.address (hiByte w))))) s
  | .kindLenWord target tag std =>
    match std with
    | none => onLink (fwd (sw.afterKindLen left (loByte w).toNat false)) s
    | some st =>
      let r := storeParcel (arrivingParcel sw target tag st w) s.parcels
      onLink (fwd (sw.afterKindLen left (loByte w).toNat r.2)) { s with parcels := r.1 }
  | .bodyWord n storing =>
    let s1 := if storing then
        { s with parcels := { s.parcels with buffer := storeBodyWord w s.parcels.buffer } }
      else s
    onLink (fwd (if 1 < n then .parcels sw left (.bodyWord (n - 1) storing) else sw.afterParcel left)) s1

/-! ### Trailer and after (R33, R38, R40) -/

/-- A word in TRAILER: the check word, then the mark word (R33, R215). -/
def trailerWord (sw : Sweep) (checkOk : Option Bool) (w : Word) (s : State) : State :=
  match checkOk with
  | none => onLink (Link.enter (.trailer sw (some (w == s.link.inCrc)))) s
  | some b => onLink (Link.enter (.waitEnd sw b (w == cleanMark))) s

/-- A word in WAIT-END: the framing is no longer exact (R38). -/
def extraWord (s : State) : State := onLink (fun l => { l with framingExact := false }) s

/-- A word arriving on DI, by the receiver state (R24 and the table after R40). -/
def wordOnDi (w : Word) (s : State) : State :=
  match s.link.rx with
  | .waitStart => s
  | .skip => s
  | .header got => headerWord got w s
  | .payload sw k => payloadWord sw k w s
  | .parcels sw left pos => parcelWord sw left pos w s
  | .trailer sw c => trailerWord sw c w s
  | .waitEnd _ _ _ => extraWord s

/-! ### END (R34, R37, R38, R40) -/

/-- An early END: the outgoing sweep is closed with POISON (R37). -/
def earlyClose (s : State) : State :=
  onLink (fun l => (l.close poisonMark s.asked).enter .waitStart) s

/-- END in WAIT-END: verdict, closing, sweep end (R34). -/
def closeSweep (sw : Sweep) (checkOk clean : Bool) (s : State) : State :=
  if goodVerdict s.link checkOk clean then
    goodSweepEnd sw (onLink (fun l => (l.close cleanMark s.asked).enter .waitStart) s)
  else badSweepEnd sw (earlyClose s)

/-- END on DI (R25, R34, R37, R38, R40). -/
def endOnDi (s : State) : State :=
  match s.link.rx with
  | .waitStart => s
  | .skip => onLink (Link.enter .waitStart) s
  | .header _ => earlyClose s
  | .payload sw _ => badSweepEnd sw (earlyClose s)
  | .parcels sw _ _ => badSweepEnd sw (earlyClose s)
  | .trailer sw _ => badSweepEnd sw (earlyClose s)
  | .waitEnd sw c m => closeSweep sw c m s

/-! ### Flow symbols and the DO lane (R23, R45, R46) -/

/-- The flow symbol sent again when 1 ms has passed with no sweep open (R45). -/
def repeatFlow (s : State) : State :=
  if s.link.rx.inFlight then s else onLink (Link.push (.flow s.asked)) s

/-- One symbol time of DO: the oldest symbol of the queue, or IDLE (R23). -/
def Link.sendOne (l : Link) : Link :=
  match l.doQueue with
  | [] => { l with doLane := .idle }
  | x :: rest => { l with doLane := x, doQueue := rest }

/-! ### The commands -/

/-- DI_START. -/
def execDiStart (s : State) : Result := whenUp s startOnDi

/-- DI_HEADER_WORD; every word on DI is taken as the receiver state says (log entry 8). -/
def execDiHeaderWord (w : Word) (s : State) : Result := whenUp s (wordOnDi w)

/-- DI_PAYLOAD_WORD. -/
def execDiPayloadWord (w : Word) (s : State) : Result := whenUp s (wordOnDi w)

/-- DI_PARCEL_WORD. -/
def execDiParcelWord (w : Word) (s : State) : Result := whenUp s (wordOnDi w)

/-- DI_TRAILER_WORD. -/
def execDiTrailerWord (w : Word) (s : State) : Result := whenUp s (wordOnDi w)

/-- DI_EXTRA_WORD. -/
def execDiExtraWord (w : Word) (s : State) : Result := whenUp s (wordOnDi w)

/-- DI_DISCARDED_WORD. -/
def execDiDiscardedWord (w : Word) (s : State) : Result := whenUp s (wordOnDi w)

/-- DI_END. -/
def execDiEnd (s : State) : Result := whenUp s endOnDi

/-- DI_FLOW_SYMBOL (R46). -/
def execDiFlowSymbol (f : Flow) (s : State) : Result := whenUp s (onLink fun l => { l with flowIn := f })

/-- FLOW_SYMBOL_REPEAT (R45). -/
def execFlowSymbolRepeat (s : State) : Result := whenUp s repeatFlow

/-- DO_SYMBOL_TIME (R23); while a power-on reset lasts DO carries IDLE (R44, R208). -/
def execDoSymbolTime (s : State) : Result := whenUp s (onLink Link.sendOne)

end Sys2Proof.Machine
end

