-- ==== Sys2Proof/Machine/ReturnLane.lean ====
section
/-! DEFINITION. The pass buffer, the receiving side of RI, and the RO arbiter (07_replies_and_the_return_lane.md, 7.4 and 7.5). -/

namespace Sys2Proof.Machine

open Sys2Proof

/-- Places in the pass buffer (R141). -/
def passCapacity : Nat := 3

/-- START on RI (R141, R142): a message still arriving is discarded, and the new one has a place or is overrun. -/
def startOnRi (s : State) : State :=
  let s1 := if s.ret.ri = .arriving then loseMessage s else s
  if s1.ret.pass.length < passCapacity then { s1 with ret := { s1.ret with ri := .arriving } }
  else { s1 with ret := { s1.ret with ri := .overrun, lost := true } }

/-- The words between START and END of a message that is accepted: three header words, as many body words as header
word 2 says, 0..64, and a check word that matches (R131, R141). -/
def messageAccepted (ws : List Word) : Bool :=
  match ws with
  | _ :: _ :: n :: rest =>
    n.toNat ≤ 64 && rest.length == n.toNat + 1 && rest.getLast? == some (crcOf ws.dropLast)
  | _ => false

/-- END on RI, which closes the message whose words are given (R141, R142). -/
def endOnRi (ws : List Word) (s : State) : State :=
  match s.ret.ri with
  | .idle => s
  | .overrun => { s with ret := { s.ret with ri := .idle } }
  | .arriving =>
    if messageAccepted ws then
      sendFlowChange s.asked { s with ret := { s.ret with ri := .idle, pass := s.ret.pass ++ [ws] } }
    else { s with ret := { s.ret with ri := .idle, lost := true } }

/-- The next message the arbiter sends, if any (R145). -/
inductive Candidate where
  | passHead (ws : List Word) (rest : List (List Word))
  | localHead (m : Msg) (rest : List Msg)
  | nothing
deriving DecidableEq, Repr

/-- The arbiter's choice between the two heads (R145). -/
def arbiterChoice (r : Ret) : Candidate :=
  match r.pass, r.queue with
  | [], [] => .nothing
  | ws :: rest, [] => .passHead ws rest
  | [], m :: rest => .localHead m rest
  | ws :: rest, m :: mrest => if r.passCount = 3 then .localHead m mrest else .passHead ws rest

/-- What the sender puts between START and END for a message of the local queue: header, body, check word (R131, R146). -/
def Msg.sent (m : Msg) : List Word := m.words ++ [crcOf m.words]

/-- A transmission starts when RO is idle, the recorded flow symbol is FLOW-GO and a message waits (R144); the message
leaves its store, the counter follows, and a freed place acts on the flow state or on waiting notices (R137, R143, R146). -/
def startTransmission (s : State) : State :=
  if s.ret.ro.isSome ∨ s.link.flowIn = .hold then s
  else
    match arbiterChoice s.ret with
    | .nothing => s
    | .passHead ws rest =>
      sendFlowChange s.asked { s with ret := { s.ret with
        pass := rest, ro := some ws, passCount := if s.ret.passCount < 3 then s.ret.passCount + 1 else 3 } }
    | .localHead m rest =>
      joinNotices { s with ret := { s.ret with queue := rest, ro := some m.sent, passCount := 0 } }

/-- The end of END on RO (R146). -/
def completeTransmission (s : State) : State := { s with ret := { s.ret with ro := none } }

end Sys2Proof.Machine
end

