-- ==== Sys2Proof/Machine/Power.lean ====
section
/-! DEFINITION. Power-on reset and the pins (R208, R209), and the commands of the clocks, the timers, the return lane
and the reset. -/

namespace Sys2Proof.Machine

open Sys2Proof

/-- The values every block holds while a power-on reset lasts, with the given pins; the model's own fields stay (R208,
R44, R63, R83, R88, R130, R147, R171, R181, R186, R197, R201). -/
def powerOnValues (pins : Pins) (s : State) : State where
  link := {
    rx := .waitStart, inCrc := crcInit, outCrc := crcInit, framingExact := true, voidMark := false, fwdCount := 0
    address := 255, lastGood := 0, flowIn := .hold, doQueue := [], doLane := .idle }
  tables := {
    map := .powerOn mapWords0, curves := .powerOn curvesWords0, drive := .powerOn driveWords0
    policy := .powerOn policyWords0 }
  parcels := { buffer := [], account := none, history := [], startMark := true, cause := .power }
  levels := Vector.ofFn fun _ => { staged := 0, stagedMark := false, held := 0, heldMark := false, active := 0 }
  drive := {
    running := false, rate := 1
    ch := Vector.ofFn fun c => { onTime := 0, code := 0, phase := Fin.ofNat 4 c.val, off := .clear } }
  diag := {
    records := Vector.ofFn fun _ => { state := .clear, run := 0, seen := false }
    latches := Vector.ofFn fun _ => none
    changed := Vector.ofFn fun _ => false }
  thermal := { reading := none, band := .normal, highest := .normal }
  supply := { state := .ok, agree := 0, lowMark := false }
  watch := { state := .silent, watchTimer := none, holdTimer := none }
  ret := {
    queue := [], pass := [], ri := .idle, ro := none, thermalFlag := false, supplyFlag := false, linkFlag := false
    prevLink := .silent, lost := false, passCount := 0 }
  snap := { image := Vector.ofFn fun _ => 0, valid := false }
  pins := pins
  freeUses := s.freeUses
  pending := s.pending

/-- A power-on reset begins or is extended: everything in progress is abandoned (R208). -/
def beginReset (pins : Pins) (s : State) : State := powerOnValues { pins with phase := .held } s

/-- A line is released: with both released the 1 ms count starts (R208). -/
def releaseLines (pins : Pins) (s : State) : State :=
  if s.pins.phase = .held ∧ pins.rstnLow = false ∧ pins.vcc = .normal then
    { s with pins := { pins with phase := .counting } }
  else { s with pins := pins }

/-- The reset ends: start mark with cause POWER, the first cycle start, FLOW-GO on DO (R77, R199, R208, R45). -/
def endReset (s : State) : State :=
  let s1 := { s with
    pins := { s.pins with phase := .up }
    parcels := { s.parcels with startMark := true, cause := .power } }
  onLink (Link.push (.flow s1.asked)) (startCycle s1)

/-- The shortest low on RSTN that is not ignored, in nanoseconds (R208). -/
def rstnMinimumNs : Nat := 1000

/-! ### The commands -/

/-- POWER_ON_RESET (R208). VCC that is already below 1.5 V stays there. -/
def execPowerOnReset (cause : ResetCause) (s : State) : Result :=
  match cause with
  | .rstnLow ns => .next (if ns < rstnMinimumNs then s else beginReset { s.pins with rstnLow := true } s)
  | .vccLow => .next (beginReset { s.pins with vcc := if s.pins.vcc = .below15 then .below15 else .below27 } s)

/-- RESET_RELEASE (R208). -/
def execResetRelease (line : ResetLine) (s : State) : Result :=
  match line with
  | .rstn => .next (releaseLines { s.pins with rstnLow := false } s)
  | .vcc => .next (releaseLines { s.pins with vcc := .normal } s)

/-- RESET_END (R208): the 1 ms count runs out. -/
def execResetEnd (s : State) : Result := .next (if s.pins.phase = .counting then endReset s else s)

/-- VCC_FLT_DRIVE_THRESHOLD (R209). A fall from above 2.7 V passes that threshold too and begins a power-on reset
(R208; log entry 15). -/
def execVccFltDriveThreshold (edge : VccEdge) (s : State) : Result :=
  match edge with
  | .falling =>
    .next (if s.pins.vcc = .normal then beginReset { s.pins with vcc := .below15 } s
      else { s with pins := { s.pins with vcc := .below15 } })
  | .rising =>
    .next (if s.pins.vcc = .below15 then { s with pins := { s.pins with vcc := .below27 } } else s)

/-- CYCLE_START (R78): a cycle begins once the one before has been completed (R77, R82). -/
def execCycleStart (s : State) : Result := whenUp s fun x => if x.drive.running then x else startCycle x

/-- CYCLE_COMPLETION (R81). -/
def execCycleCompletion (obs : CycleObs) (s : State) : Result :=
  whenUp s fun x => if x.drive.running then completeCycle obs x else x

/-- THERMAL_SAMPLE (R174). -/
def execThermalSample (milliC : Int) (count : Nat) (s : State) : Result := whenUp s (sampleTemperature milliC count)

/-- WATCH_EXPIRY (R191): the watch timer runs, in LIVE (R187). -/
def execWatchExpiry (s : State) : Result :=
  whenUp s fun x => if x.watch.state = .live ∧ x.watch.watchTimer.isSome = true then expireWatch x else x

/-- HOLDOVER_EXPIRY (R192): the holdover timer runs, in HOLDOVER (R187). -/
def execHoldoverExpiry (s : State) : Result :=
  whenUp s fun x => if x.watch.state = .holdover ∧ x.watch.holdTimer.isSome = true then expireHoldover x else x

/-- TRANSMISSION_START (R144 to R146). -/
def execTransmissionStart (s : State) : Result := whenUp s startTransmission

/-- TRANSMISSION_COMPLETION (R146). -/
def execTransmissionCompletion (s : State) : Result := whenUp s completeTransmission

/-- RI_MESSAGE_START (R142). -/
def execRiMessageStart (s : State) : Result := whenUp s startOnRi

/-- RI_MESSAGE_RECEIVED (R141). -/
def execRiMessageReceived (words : List Word) (s : State) : Result := whenUp s (endOnRi words)

end Sys2Proof.Machine
end

