-- ==== Sys2Proof/Machine/Dispatch.lean ====
section
/-! DEFINITION. One arm per command: each calls the command's meaning. -/

namespace Sys2Proof.Machine

open Sys2Proof

def exec (i : Instr) (s : State) : Host.Outcome State Fault Refusal :=
  match i with
  | .powerOnReset cause => Sys2Proof.Machine.execPowerOnReset cause s
  | .resetEnd => Sys2Proof.Machine.execResetEnd s
  | .diStart => Sys2Proof.Machine.execDiStart s
  | .diHeaderWord w => Sys2Proof.Machine.execDiHeaderWord w s
  | .diPayloadWord w => Sys2Proof.Machine.execDiPayloadWord w s
  | .diParcelWord w => Sys2Proof.Machine.execDiParcelWord w s
  | .diTrailerWord w => Sys2Proof.Machine.execDiTrailerWord w s
  | .diExtraWord w => Sys2Proof.Machine.execDiExtraWord w s
  | .diDiscardedWord w => Sys2Proof.Machine.execDiDiscardedWord w s
  | .diEnd => Sys2Proof.Machine.execDiEnd s
  | .diFlowSymbol f => Sys2Proof.Machine.execDiFlowSymbol f s
  | .flowSymbolRepeat => Sys2Proof.Machine.execFlowSymbolRepeat s
  | .ping => Sys2Proof.Machine.execPing s
  | .status => Sys2Proof.Machine.execStatus s
  | .write => Sys2Proof.Machine.execWrite s
  | .read => Sys2Proof.Machine.execRead s
  | .commit => Sys2Proof.Machine.execCommit s
  | .discard => Sys2Proof.Machine.execDiscard s
  | .freeze => Sys2Proof.Machine.execFreeze s
  | .thaw => Sys2Proof.Machine.execThaw s
  | .capture => Sys2Proof.Machine.execCapture s
  | .readSnapshot => Sys2Proof.Machine.execReadSnapshot s
  | .ackStart => Sys2Proof.Machine.execAckStart s
  | .clearFaults => Sys2Proof.Machine.execClearFaults s
  | .restart => Sys2Proof.Machine.execRestart s
  | .unknownKindParcel => Sys2Proof.Machine.execUnknownKindParcel s
  | .cycleStart => Sys2Proof.Machine.execCycleStart s
  | .cycleCompletion obs => Sys2Proof.Machine.execCycleCompletion obs s
  | .thermalSample milliC count => Sys2Proof.Machine.execThermalSample milliC count s
  | .watchExpiry => Sys2Proof.Machine.execWatchExpiry s
  | .holdoverExpiry => Sys2Proof.Machine.execHoldoverExpiry s
  | .transmissionStart => Sys2Proof.Machine.execTransmissionStart s
  | .transmissionCompletion => Sys2Proof.Machine.execTransmissionCompletion s
  | .riMessageStart => Sys2Proof.Machine.execRiMessageStart s
  | .riMessageReceived words => Sys2Proof.Machine.execRiMessageReceived words s
  | .resetRelease line => Sys2Proof.Machine.execResetRelease line s
  | .doSymbolTime => Sys2Proof.Machine.execDoSymbolTime s
  | .vccFltDriveThreshold edge => Sys2Proof.Machine.execVccFltDriveThreshold edge s

end Sys2Proof.Machine
end

