-- ==== Sys2Proof/Machine/Queue.lean ====
section
/-! DEFINITION. The queue of waiting commands: taking the front command and running it; what `step` calls. -/

namespace Sys2Proof.Machine

open Sys2Proof

/-- The front command run with the rest of the queue; an empty queue leaves the node as it is (log entry 10). -/
def runFront (s : State) : Result :=
  match s.pending with
  | [] => .next s
  | c :: rest => exec c { s with pending := rest }

/-- A command put at the front of the queue. -/
def putFront (c : Instr) (s : State) : State := { s with pending := c :: s.pending }

end Sys2Proof.Machine
end

