-- ==== Sys2Proof/Machine/Step.lean ====
section
/-! DEFINITION. One step of the block: the command at the front of its queue. -/

namespace Sys2Proof.Machine

open Sys2Proof

/-- One step (Queue.lean). -/
def step (s : State) : Host.Outcome State Fault Refusal := runFront s

/-- The command that a word of the table's bits spells, put at the front of the queue; `s` where the word spells none. -/
def State.withFetchWord (s : State) (nbits w : Nat) : State :=
  match decodeTableWord nbits w with
  | some c => putFront c s
  | none => s

end Sys2Proof.Machine
end

