-- ==== Sys2Proof/Safety.lean ====
section
/-! DEFINITION. What counts as a sound state of the node, one predicate per promise of the spec, in the terms the
statements use; and the words the statements share to say that a parcel has its turn and is answered. -/

namespace Sys2Proof.Safety

open Sys2Proof Sys2Proof.Machine

/-! ### Sound states -/

/-- The messages of a queue that are notices of kind `k`. -/
def noticesOf (k : NoticeKind) (q : List Msg) : List Msg := q.filter fun m => m.noticeKind == some k

/-- The messages of a queue that are notices. -/
def allNotices (q : List Msg) : List Msg := q.filter fun m => m.noticeKind.isSome

/-- The local reply queue holds at most 8 messages, at most 6 notices, at most one of each kind (R133), and every
notice has a source 0 to 254 (R132). -/
def ReplyQueueSound (s : State) : Prop :=
  s.ret.queue.length ≤ 8 ∧ (allNotices s.ret.queue).length ≤ 6 ∧ (∀ k, (noticesOf k s.ret.queue).length ≤ 1) ∧
    ∀ m ∈ s.ret.queue, m.noticeKind.isSome = true → m.source ≠ 255

/-- No notice that could join the queue waits outside it (R137). -/
def NoNoticeWaits (s : State) : Prop := ∀ k, noticeEligible s k = false

/-- The pass buffer holds at most 3 messages, a message that arrives has its place, and the consecutive-pass counter is
0 to 3 (R141, R142, R145). -/
def PassBufferSound (s : State) : Prop :=
  s.ret.pass.length ≤ 3 ∧ (s.ret.ri = .arriving → s.ret.pass.length < 3) ∧ s.ret.passCount ≤ 3

/-- The DO queue holds at most 16 symbols (R23). -/
def DoQueueSound (s : State) : Prop := s.link.doQueue.length ≤ 16

/-- The parcel buffer holds at most 8 parcels and 256 body words, and its executable parcels stand before the others
(R111, R117). -/
def ParcelBufferSound (s : State) : Prop :=
  s.parcels.buffer.length ≤ 8 ∧ reservedWords s.parcels.buffer ≤ 256 ∧
    s.parcels.buffer.Pairwise fun a b => b.executable = true → a.executable = true

/-- The duplicate history holds at most 4 entries with pairwise distinct tags, none of them 0 (R124). -/
def HistorySound (s : State) : Prop :=
  s.parcels.history.length ≤ 4 ∧ (s.parcels.history.Pairwise fun a b => a.tag ≠ b.tag) ∧
    ∀ e ∈ s.parcels.history, e.tag ≠ 0

/-- A copy of MAP is valid (R90, R91). -/
def MapValid (v : Vector Word 49) : Prop := ∀ o, o < 49 → mapOffends v o = false

/-- A copy of CURVES is valid (R90, R92). -/
def CurvesValid (v : Vector Word 68) : Prop := ∀ o, o < 68 → curvesOffends v o = false

/-- A copy of DRIVE is valid (R90, R93). -/
def DriveValid (v : Vector Word 33) : Prop := ∀ o, o < 33 → driveOffends v o = false

/-- A copy of POLICY is valid (R90, R94). -/
def PolicyValid (v : Vector Word 25) : Prop := ∀ o, o < 25 → policyOffends v o = false

/-- A section is sound: its active copy is valid, and while it is pending so is its shadow copy (R90, R101). -/
def SectionSound {n : Nat} (valid : Vector Word n → Prop) (x : Section n) : Prop :=
  valid x.active ∧ (x.pending = true → valid x.shadow)

/-- Every section is sound. -/
def TablesSound (s : State) : Prop :=
  SectionSound MapValid s.tables.map ∧ SectionSound CurvesValid s.tables.curves ∧
    SectionSound DriveValid s.tables.drive ∧ SectionSound PolicyValid s.tables.policy

/-- Every isolation latch names a record whose seen mark is set, and every standing record has its seen mark set (R163). -/
def LatchesSound (s : State) : Prop :=
  (∀ (c : Fin 16) (r : Fin 63), s.diag.latches[c] = some r → s.diag.records[r].seen = true) ∧
    ∀ r : Fin 63, s.diag.records[r].state.standing = true → s.diag.records[r].seen = true

/-- Run counts: 0 in CLEAR and CONFIRMED, at most 15 elsewhere (R150, R159). -/
def RunsSound (s : State) : Prop :=
  ∀ r : Fin 63, s.diag.records[r].run ≤ 15 ∧
    (s.diag.records[r].state = .clear ∨ s.diag.records[r].state = .confirmed → s.diag.records[r].run = 0)

/-- The watch timer runs at most in LIVE and the holdover timer at most in HOLDOVER (R187). -/
def TimersSound (s : State) : Prop :=
  (s.watch.watchTimer.isSome = true → s.watch.state = .live) ∧
    (s.watch.holdTimer.isSome = true → s.watch.state = .holdover)

/-- The highest-band mark is never below the band in force (R177); the agreement count is 0 or 1 (R183); while the supply
is LOW the supply-low mark is set (R183, R185). -/
def MonitorsSound (s : State) : Prop :=
  s.thermal.band.value ≤ s.thermal.highest.value ∧ s.supply.agree ≤ 1 ∧
    (s.supply.state = .low → s.supply.lowMark = true)

/-- While a cycle runs in CRITICAL every off-forced mark is set (R80). -/
def CriticalCut (s : State) : Prop :=
  s.drive.running = true → s.thermal.band = .critical → ∀ c : Fin 16, s.drive.ch[c].offFrom.isSome = true

/-- Every on-time taken for a cycle is at most 4096 (R71, R78). -/
def OnTimesSound (s : State) : Prop := ∀ c : Fin 16, s.drive.ch[c].onTime ≤ 4096

/-- A parcel has arrived whole. -/
def Whole (p : Parcel) : Prop := p.body.length = p.len

/-- Every parcel of the buffer has arrived whole, but for one that the receiver is storing now: that one is the last, is
not executable, and lacks as many body words as the receiver still expects (R111, R112). -/
def ParcelsWhole (s : State) : Prop :=
  match s.link.rx with
  | .parcels _ _ (.bodyWord n true) =>
    ∃ front last, s.parcels.buffer = front ++ [last] ∧ (∀ p ∈ front, Whole p) ∧ last.executable = false ∧
      last.body.length + n = last.len ∧ 0 < n
  | _ => ∀ p ∈ s.parcels.buffer, Whole p

/-- The receiver's place in the sweep agrees with the sweep's counts (R13, R24, R29, R31). -/
def ReceiverSound (s : State) : Prop :=
  match s.link.rx with
  | .waitStart => True
  | .header got => got.length ≤ 2
  | .payload sw k => k < sw.p ∧ (sw.kind = .data → s.link.fwdCount ≤ sw.p) ∧ sw.p ≤ 4096 ∧ sw.q ≤ 31
  | .parcels sw left _ => 0 < left ∧ left ≤ sw.q ∧ sw.q ≤ 31
  | .trailer _ _ => True
  | .waitEnd _ _ _ => True
  | .skip => True

/-! ### Words the statements share -/

/-- No power-on reset is in progress. -/
def Up (s : State) : Prop := s.pins.phase = .up

/-- The parcel `p` at the head of the buffer has its turn (R117). -/
structure Turn (s : State) (p : Parcel) (rest : List Parcel) : Prop where
  up : Up s
  head : s.parcels.buffer = p :: rest
  executable : p.executable = true

/-- An addressed parcel of kind `k` has its turn and passes steps 1 to 4 of R118. -/
structure AddressedTurn (s : State) (k : ParcelKind) (p : Parcel) (rest : List Parcel) : Prop where
  turn : Turn s p rest
  addressed : p.standing = .addressed
  kind : parcelKindOf p.kind = some k
  suits : k.suits p.len = true
  slot : s.ret.queue.length < 8
  fresh : repeatedResult k p.tag s.parcels.history = none

/-- A broadcast parcel of kind `k` has its turn and its length suits (R121). -/
structure BroadcastTurn (s : State) (k : ParcelKind) (p : Parcel) (rest : List Parcel) : Prop where
  turn : Turn s p rest
  broadcast : p.standing = .broadcast
  kind : parcelKindOf p.kind = some k
  suits : k.suits p.len = true

/-- The message a reply becomes when it joins the queue of `s` (R132). -/
def replyMsg (s : State) (p : Parcel) (code : ResultCode) (rep : Bool) (body : List Word) : Msg where
  source := s.link.address
  lost := s.ret.lost
  content := .reply p.tag code rep body

/-- `s` after the parcel `p` has left the buffer and its reply has joined the queue, which takes the LOST mark with it;
nothing else changes (R117, R122, R132, R135). -/
def answered (s : State) (p : Parcel) (rest : List Parcel) (code : ResultCode) (rep : Bool) (body : List Word) : State :=
  { s with
    parcels := { s.parcels with buffer := rest }
    ret := { s.ret with queue := s.ret.queue ++ [replyMsg s p code rep body], lost := false } }

/-- The history after an addressed parcel of a recorded kind has executed with result `code` (R124): tag 0 leaves it; an
entry of the same tag goes, or else the oldest of four; the new entry is the newest. -/
def historyAfter (h : List HistEntry) (k : ParcelKind) (tag : Byte) (code : ResultCode) : List HistEntry :=
  if tag = 0 then h
  else
    let kept := h.filter fun e => e.tag != tag
    (if kept.length = h.length ∧ 4 ≤ h.length then h.drop 1 else kept) ++ [{ tag := tag, kind := k, code := code }]

/-- The command that executes a parcel of a kind. -/
def parcelCommand (k : ParcelKind) : Instr :=
  match k with
  | .ping => .ping
  | .status => .status
  | .write => .write
  | .read => .read
  | .commit => .commit
  | .discard => .discard
  | .freeze => .freeze
  | .thaw => .thaw
  | .capture => .capture
  | .readSnapshot => .readSnapshot
  | .ackStart => .ackStart
  | .clearFaults => .clearFaults
  | .restart => .restart

/-- A command that carries a word on DI, with the word. -/
def diWord (c : Instr) : Option Word :=
  match c with
  | .diHeaderWord w | .diPayloadWord w | .diParcelWord w | .diTrailerWord w | .diExtraWord w | .diDiscardedWord w =>
    some w
  | _ => none

/-- The sweep in flight when it has had its header acceptance (R24). -/
def acceptedSweep (r : Rx) : Option Sweep :=
  match r with
  | .payload sw _ | .parcels sw _ _ | .trailer sw _ | .waitEnd sw _ _ => some sw
  | .waitStart | .header _ | .skip => none

/-- The word `w` completes a valid header in state `s`: its kind (R22, R26). -/
def headerKind (s : State) (w : Word) : Option SweepKind :=
  match s.link.rx with
  | .header (w0 :: _ :: _) => judgeHeader w0 w
  | _ => none

/-- The commands at whose events a notice can become eligible (R137). -/
def LetsNoticesJoin (c : Instr) : Prop :=
  match c with
  | .diEnd | .restart | .cycleCompletion _ | .thermalSample _ _ | .watchExpiry | .holdoverExpiry | .transmissionStart => True
  | _ => False

/-- The command begins a power-on reset in state `s` (R208; log entry 15). -/
def beginsReset (c : Instr) (s : State) : Prop :=
  match c with
  | .powerOnReset (.rstnLow ns) => 1000 ≤ ns
  | .powerOnReset .vccLow => True
  | .vccFltDriveThreshold .falling => s.pins.vcc = .normal
  | _ => False

/-- What a swap makes of one section (R102). -/
def Swapped {n : Nat} (x y : Section n) : Prop :=
  if x.pending then
    y.active = x.shadow ∧ y.shadow = x.shadow ∧ y.pending = false ∧ y.frozen = x.frozen ∧
      y.gen = if x.gen = 65535 then 1 else x.gen + 1
  else y = x

/-- The window of an observation that holds count `i`, when the first window begins at count `at_`. -/
def windowAt (ws : List ObsWindow) (at_ i : Nat) : Option ObsWindow :=
  match ws with
  | [] => none
  | w :: rest => if at_ ≤ i ∧ i < at_ + w.len then some w else windowAt rest (at_ + w.len) i

/-- Symbols join the tail of the DO queue in their order, as many as find room; the others are dropped (R23). -/
def queued (l : Link) (xs : List Symbol) : Link := { l with doQueue := l.doQueue ++ xs.take (16 - l.doQueue.length) }

/-- A word of the sweep in flight is sent on: it joins the DO queue and enters the outbound check, or finds the queue full,
is dropped, and leaves the framing not exact (R23, R32). -/
def sentOn (l : Link) (w : Word) : Link :=
  if l.doQueue.length < 16 then { l with doQueue := l.doQueue ++ [.word w], outCrc := crcWord l.outCrc w }
  else { l with framingExact := false }

/-- The outgoing sweep is closed with a mark word: outbound check word, mark word, END and the flow symbol asked for; the
framing is not exact when one of them is dropped (R23, R34, R45; log entries 12 and 13). -/
def closedWith (mark : Word) (f : Flow) (l : Link) : Link :=
  { queued l [.word l.outCrc, .word mark, .endSym, .flow f] with
    framingExact := l.framingExact && decide (l.doQueue.length + 4 ≤ 16) }

/-- The receiver sends the next word on DI on to DO: every word but a covered one of a take entry, and the words of the
trailer and after it (R26, R29, R31, R33). -/
def SendsOn (r : Rx) : Prop :=
  match r with
  | .header _ => True
  | .payload sw k => sw.kind = .data → ∀ e, sw.map.find? (fun e => e.covers k) = some e → e.take = false
  | .parcels _ _ _ => True
  | .waitStart | .trailer _ _ | .waitEnd _ _ _ | .skip => False

/-- Every staged mark cleared. -/
def unstaged (v : Vector LevelCh 16) : Vector LevelCh 16 := Vector.ofFn fun c => { v[c] with stagedMark := false }

/-- What a bad sweep end leaves, but for the link: the staged marks of a DATA sweep cleared, the sweep's own parcels
removed, its account closed (R36, R53, R115). -/
def afterBadEnd (sw : Sweep) (s : State) : State :=
  { s with
    levels := if sw.kind = .data then unstaged s.levels else s.levels
    parcels := { s.parcels with buffer := s.parcels.buffer.filter (fun p => p.executable), account := none } }

/-- A section passes the checks of a COMMIT: not frozen, not pending, shadow copy valid (R99). -/
def PassesCommit (t : Tables) (c : SecCode) : Prop :=
  t.frozen c = false ∧ t.pendingMark c = false ∧
    match c with
    | .map => MapValid t.map.shadow
    | .curves => CurvesValid t.curves.shadow
    | .drive => DriveValid t.drive.shadow
    | .policy => PolicyValid t.policy.shadow

/-- Offset `o` of the shadow copy of a section offends (R91 to R94). -/
def offendsAt (t : Tables) (c : SecCode) (o : Nat) : Bool :=
  match c with
  | .map => mapOffends t.map.shadow o
  | .curves => curvesOffends t.curves.shadow o
  | .drive => driveOffends t.drive.shadow o
  | .policy => policyOffends t.policy.shadow o

/-- The sections named by a section-set word, in the order MAP, CURVES, DRIVE, POLICY (R85, R212). -/
def sectionsNamed (w : Word) : List SecCode :=
  (if w.getLsbD 0 then [.map] else []) ++ (if w.getLsbD 1 then [.curves] else [])
    ++ (if w.getLsbD 2 then [.drive] else []) ++ if w.getLsbD 3 then [.policy] else []

/-- Both copies and the generation of section `d` are alike in `t` and `u`. -/
def SameContent (t u : Tables) (d : SecCode) : Prop :=
  u.copyWords d false = t.copyWords d false ∧ u.copyWords d true = t.copyWords d true ∧ u.gen d = t.gen d

/-- `w` says the address, start mark and cause of `s` (STATUS word 0, R212). -/
def SaysStart (s : State) (w : Word) : Prop :=
  w.toNat = s.link.address.toNat + (if s.parcels.startMark then 32768 else 0)
    + if s.parcels.cause = .restart then 16384 else 0

/-- `w` says the link state, bands and supply of `s` (STATUS word 1, R212). -/
def SaysMonitors (s : State) (w : Word) : Prop :=
  w.toNat = s.watch.state.value + 16 * s.thermal.band.value + 256 * s.thermal.highest.value
    + (if s.supply.state = .low then 4096 else 0) + if s.supply.lowMark then 8192 else 0

/-- `w` says the frozen and the pending set of `s` (STATUS word 6, R212). -/
def SaysMarks (s : State) (w : Word) : Prop :=
  ∀ x : SecCode, w.getLsbD x.value = s.tables.frozen x ∧ w.getLsbD (8 + x.value) = s.tables.pendingMark x

/-- `w` says which channels of `s` hold an isolation latch (STATUS word 7, R212). -/
def SaysIsolation (s : State) (w : Word) : Prop := ∀ c : Fin 16, w.getLsbD c.val = s.diag.latches[c].isSome

/-- Record `i`, confirmed while the DRIVE copy `d` is active, affects channel `c` (R150, R162, R163). -/
def Touches (d : Vector Word 33) (i : Fin 63) (c : Fin 16) : Prop :=
  let n := i.val % 16
  let upper := 48 ≤ i.val
  (drivePolicy d n = .isolate ∧ (c.val = n ∨ (upper ∧ c.val = n + 1))) ∨
    (drivePolicy d n = .isolateGroup ∧ (c.val / 4 = n / 4 ∨ (upper ∧ c.val / 4 = (n + 1) / 4)))

/-- A FAULT notice of the queue lists record `i` (R139, R212). -/
def ListsRecord (q : List Msg) (i : Fin 63) : Prop :=
  ∃ m ∈ q, ∃ body, m.content = .notice .fault body ∧ ∃ w ∈ body, w.toNat % 64 = i.val

/-- `x` is the record of lowest index with a property, none when no record has it. -/
def IsLowest (x : Option (Fin 63)) (has : Fin 63 → Prop) : Prop :=
  ∀ i : Fin 63, x = some i ↔ has i ∧ ∀ j : Fin 63, j < i → ¬ has j

/-- The failing condition of record `i` in a window, voltages in millivolts (R152 to R155; "within" is read as inclusive,
log entry 11). With REF open every output that should conduct collapses (R75; log entry 16). -/
def FailingCondition (pol : Vector Word 25) (i : Fin 63) (w : ObsWindow) : Prop :=
  let v := fun n => w.out[n]?.getD 0
  let n := i.val % 16
  if i.val < 16 then Config.refOhms = none ∨ v n ≤ 200
  else if i.val < 32 then w.vls < v n + [800, 1200, 1600, 2000].getD (polShort pol) 0
  else if i.val < 48 then v n < 600
  else v n ≤ v (n + 1) + 300 ∧ v (n + 1) ≤ v n + 300

/-- The channel conducts at count `i` of its cycle by its taken values (R79, R80). -/
def ConductsAt (d : DriveCh) (i : Nat) : Prop :=
  d.code ≠ 0 ∧ ((1024 * d.phase.val ≤ i ∧ i < 1024 * d.phase.val + d.onTime) ∨ i + 4096 < 1024 * d.phase.val + d.onTime) ∧
    ∀ n, d.offFrom = some n → i < n

/-- Exactly one of two neighbouring channels conducts at count `i`, the one named first (R155). -/
def ConductsAlone (a b : DriveCh) (i : Nat) : Prop := ConductsAt a i ∧ ¬ ConductsAt b i

/-- A run holds count `i`. -/
def Holds (r : CountRun) (i : Nat) : Prop := r.lo ≤ i ∧ i < r.hi

/-- The record enters CONFIRMED from CLEAR or SUSPECT (R160). -/
def Confirmed (a b : FaultRec) : Prop := (a.state = .clear ∨ a.state = .suspect) ∧ b.state = .confirmed

/-- The record enters CLEAR from CONFIRMED or RECOVERING (R161). -/
def Recovered (a b : FaultRec) : Prop := (a.state = .confirmed ∨ a.state = .recovering) ∧ b.state = .clear

/-- No notice kind is pending but those of a list. -/
def OnlyPending (s : State) (ks : List NoticeKind) : Prop := ∀ k, k ∉ ks → noticePending s k = false

/-- A notice of kind `k` can join the queue of `s` at once when it becomes pending: addressed, none of its kind queued, room
below 6 (R137). -/
def RoomForNotice (s : State) (k : NoticeKind) : Prop :=
  s.link.address ≠ 255 ∧ s.ret.queue.length < 6 ∧ ∀ m ∈ s.ret.queue, m.noticeKind ≠ some k

/-- A notice as it joins the queue of `s` (R132). -/
def noticeMsg (s : State) (k : NoticeKind) (body : List Word) : Msg where
  source := s.link.address
  lost := s.ret.lost
  content := .notice k body

/-- The records a FAULT notice lists: the sixteen of lowest index in the changed set (R139). -/
def listedRecords (s : State) : List (Fin 63) := ((List.finRange 63).filter fun i => s.diag.changed[i]).take 16

/-- What the body of a notice says at its joining: for FAULT each listed record with its standing and seen mark; for THERMAL
the band and the highest band; for SUPPLY the supply state; for LINK the link state and the one it left (R139, R140, R212). -/
def noticeSays (s : State) (k : NoticeKind) : List Word :=
  match k with
  | .fault => (listedRecords s).map fun i => BitVec.ofNat 16 (i.val
      + (if s.diag.records[i].state.standing then 256 else 0) + if s.diag.records[i].seen then 512 else 0)
  | .thermal => [BitVec.ofNat 16 (s.thermal.band.value + 16 * s.thermal.highest.value)]
  | .supply => [if s.supply.state = .low then 1 else 0]
  | .link => [BitVec.ofNat 16 (s.watch.state.value + 16 * s.ret.prevLink.value)]

/-- The notice kinds that join now: at an addressed node the pending kinds of which none is queued, in the order FAULT,
THERMAL, SUPPLY, LINK, as many as keep the queue at 6 messages (R137, R138). -/
def joiningKinds (s : State) : List NoticeKind :=
  if s.link.address = 255 then []
  else
    ([NoticeKind.fault, .thermal, .supply, .link].filter fun k =>
      noticePending s k && s.ret.queue.all fun m => m.noticeKind != some k).take (6 - s.ret.queue.length)

/-- The notices of some kinds as they join one after the other: the first carries the LOST mark (R132, R135). -/
def noticesInOrder (s : State) (ks : List NoticeKind) : List Msg :=
  match ks with
  | [] => []
  | k :: rest => noticeMsg s k (noticeSays s k) :: rest.map fun x => { noticeMsg s x (noticeSays s x) with lost := false }

/-- `s` after every notice that can join has joined: a kind that joined is consumed, every other stays pending (R135, R137
to R139). -/
def noticesJoined (s : State) : State :=
  let ks := joiningKinds s
  { s with
    diag := { s.diag with changed := Vector.ofFn fun i =>
      s.diag.changed[i] && !(ks.contains .fault && (listedRecords s).contains i) }
    ret := { s.ret with
      queue := s.ret.queue ++ noticesInOrder s ks
      lost := s.ret.lost && ks.isEmpty
      thermalFlag := s.ret.thermalFlag && !ks.contains .thermal
      supplyFlag := s.ret.supplyFlag && !ks.contains .supply
      linkFlag := s.ret.linkFlag && !ks.contains .link } }

/-- `s` after a PARCEL-OVERFLOW reply with this tag and number of unstored parcels has joined the queue, or has found it
full and set the LOST mark (R114, R120). -/
def overflowReplied (tag : Byte) (unstored : Nat) (s : State) : State :=
  { s with ret :=
    if s.ret.queue.length < 8 then
      { s.ret with
        lost := false
        queue := s.ret.queue ++ [{
          source := s.link.address, lost := s.ret.lost
          content := .reply tag .parcelOverflow false [BitVec.ofNat 16 unstored] }] }
    else { s.ret with lost := true } }

/-- The receiver state with the storing of a partly arrived parcel stopped (R125). -/
def storingStopped (r : Rx) : Rx :=
  match r with
  | .parcels sw left (.bodyWord n _) => .parcels sw left (.bodyWord n false)
  | _ => r

/-- What the execution of a RESTART leaves in every block but the local reply queue, the notice flags and the changed
set (R43, R64, R89, R125, R126, R148, R172, R198, R199, R201). -/
structure Restarted (s t : State) : Prop where
  link : t.link = { s.link with
    rx := storingStopped s.link.rx
    voidMark := s.link.voidMark || (s.link.rx != .waitStart && s.link.rx != .skip) }
  tables : ∀ d, SameContent s.tables t.tables d ∧ t.tables.frozen d = s.tables.frozen d ∧ t.tables.pendingMark d = false
  parcels : t.parcels = {
    buffer := [], history := [], startMark := true, cause := .restart
    account := s.parcels.account.map fun _ => { closed := false, unstored := 0, firstTag := none } }
  levels : ∀ c : Fin 16, t.levels[c].active = 0 ∧ t.levels[c].held = 0 ∧ t.levels[c].heldMark = false ∧
    t.levels[c].stagedMark = false
  records : ∀ i : Fin 63, t.diag.records[i].run = 0 ∧ t.diag.records[i].seen = s.diag.records[i].seen ∧
    t.diag.records[i].state = match s.diag.records[i].state with
      | .clear | .suspect => .clear
      | .confirmed | .recovering => .confirmed
  latches : t.diag.latches = s.diag.latches
  drive : t.drive = s.drive
  thermal : t.thermal = s.thermal
  supply : t.supply = s.supply
  watch : t.watch = { state := .silent, watchTimer := none, holdTimer := none }
  lane : t.ret.pass = s.ret.pass ∧ t.ret.ri = s.ret.ri ∧ t.ret.ro = s.ret.ro ∧ t.ret.passCount = s.ret.passCount ∧
    t.ret.prevLink = s.ret.prevLink ∧ t.ret.lost = false
  snap : t.snap = { s.snap with valid := false }
  rest : t.pins = s.pins ∧ t.freeUses = s.freeUses ∧ t.pending = s.pending

end Sys2Proof.Safety
end

