-- ==== Sys2Proof/Certificates/Slice0/Obligations.lean ====
section
/-! DEFINITION. The statements about the node for the provers. Each docstring names the rules a statement formalises; where
a statement rests on a choice of the model, its docstring says so and names the log entry. -/

open Sys2Proof Sys2Proof.Machine Sys2Proof.Safety

/-! ### The queue of commands -/

/-- With a command at the front of its queue the block runs it on the rest of the queue; with an empty queue it stays as
it is (the idle step is the model's choice, log entry 10). -/
def Obligations.StepRunsFrontCommand : Prop :=
  (∀ (c : Instr) (s : State), step { s with pending := c :: s.pending } = exec c s) ∧
    ∀ s : State, s.pending = [] → step s = .next s

/-- Every command completes in every state, and none touches the queue of commands. That a command whose event cannot occur
in the state it finds completes too, and changes nothing, is the model's choice (log entry 8). -/
def Obligations.CommandsCompleteAndKeepQueue : Prop :=
  ∀ (c : Instr) (s : State), ∃ t, exec c s = .next t ∧ t.pending = s.pending

/-! ### Power and reset -/

/-- A low of at least 1 µs on RSTN, and a fall of VCC below 2.7 V, put every block at its power-on values whatever it held
before; a shorter low is ignored (R44, R208). The running checks, the framing mark and the image take the values of log
entries 2, 3 and 4, the taken drive values those of log entry 14; the start mark stands set during the reset (log entry
24), and a fall below 2.7 V leaves a supply that is already below 1.5 V there (log entry 15). -/
def Obligations.PowerOnResetValues : Prop :=
  (∀ (s : State) (ns : Nat), ns < 1000 → exec (.powerOnReset (.rstnLow ns)) s = .next s) ∧
  (∀ (s : State) (ns : Nat), 1000 ≤ ns → exec (.powerOnReset (.rstnLow ns)) s = .next
    { State.reset with
      link := { State.reset.link with doQueue := [] }
      drive := { State.reset.drive with running := false }
      pins := { rstnLow := true, vcc := s.pins.vcc, phase := .held }
      freeUses := s.freeUses
      pending := s.pending }) ∧
  (∀ s : State, exec (.powerOnReset .vccLow) s = .next
    { State.reset with
      link := { State.reset.link with doQueue := [] }
      drive := { State.reset.drive with running := false }
      pins := { rstnLow := s.pins.rstnLow, vcc := if s.pins.vcc = .below15 then .below15 else .below27, phase := .held }
      freeUses := s.freeUses
      pending := s.pending })

/-- After the beginning of a power-on reset both copies of every section hold the power-on contents, which are valid,
every generation is 0 and no mark is set (R88). That VCC falling below 1.5 V from normal begins a power-on reset too is the
model's reading (log entry 15). -/
def Obligations.PowerOnSections : Prop :=
  ∀ (c : Instr) (s : State), beginsReset c s → ∃ t, exec c s = .next t ∧
    (t.tables.map.shadow = t.tables.map.active ∧ t.tables.curves.shadow = t.tables.curves.active ∧
      t.tables.drive.shadow = t.tables.drive.active ∧ t.tables.policy.shadow = t.tables.policy.active) ∧
    t.tables.gens = [0, 0, 0, 0] ∧
    (∀ x : SecCode, t.tables.frozen x = false ∧ t.tables.pendingMark x = false) ∧
    (mapCount t.tables.map.active = 0 ∧ ∀ o, o < 49 → wordAt t.tables.map.active o = 0) ∧
    (∀ k, k < 4 → ∀ i, i < 17 → curvePoint t.tables.curves.active k i = 256 * i) ∧
    (∀ ch, ch < 16 → driveCode t.tables.drive.active ch = 0 ∧ (drivePhase t.tables.drive.active ch).val = ch % 4 ∧
      drivePolicy t.tables.drive.active ch = .report ∧ ∀ k, k < 4 → driveMask t.tables.drive.active ch k = true) ∧
    driveRate t.tables.drive.active = 1 ∧
    (polW t.tables.policy.active = 50 ∧ polH t.tables.policy.active = 20 ∧ polWarm t.tables.policy.active = 100 ∧
      polHot t.tables.policy.active = 125 ∧ polDw t.tables.policy.active = 192 ∧ polDh t.tables.policy.active = 96 ∧
      polConfirm t.tables.policy.active = 3 ∧ polClear t.tables.policy.active = 3 ∧
      (∀ k, k < 4 → polEnable t.tables.policy.active k = true) ∧ polShort t.tables.policy.active = 1 ∧
      polSupply t.tables.policy.active = 1 ∧ ∀ ch, ch < 16 → polFallback t.tables.policy.active ch = 0) ∧
    (MapValid t.tables.map.active ∧ CurvesValid t.tables.curves.active ∧ DriveValid t.tables.drive.active ∧
      PolicyValid t.tables.policy.active)

/-- A reset by one line, the release of that line and the end of the 1 ms leave the node in the reset state, whatever it
held before; only the queue of commands and the model's own counter stay (R208). -/
def Obligations.ResetEndsInResetState : Prop :=
  (∀ (s : State) (ns : Nat), s.pins.vcc = .normal → 1000 ≤ ns → ∃ t u,
    exec (.powerOnReset (.rstnLow ns)) s = .next t ∧ exec (.resetRelease .rstn) t = .next u ∧
      exec .resetEnd u = .next { State.reset with freeUses := s.freeUses, pending := s.pending }) ∧
  (∀ s : State, s.pins.rstnLow = false → ∃ t u,
    exec (.powerOnReset .vccLow) s = .next t ∧ exec (.resetRelease .vcc) t = .next u ∧
      exec .resetEnd u = .next { State.reset with freeUses := s.freeUses, pending := s.pending })

/-- A power-on reset lasts while either line is not released; the 1 ms count starts at the later release, and only its
end ends the reset. While it lasts nothing but the reset's own commands and the VCC threshold changes anything (R208). -/
def Obligations.ResetLastsAndHoldsTheNode : Prop :=
  (∀ s : State, s.pins.phase = .held →
    exec .resetEnd s = .next s ∧
    exec (.resetRelease .rstn) s = .next { s with pins := {
      rstnLow := false, vcc := s.pins.vcc, phase := if s.pins.vcc = .normal then .counting else .held } } ∧
    exec (.resetRelease .vcc) s = .next { s with pins := {
      rstnLow := s.pins.rstnLow, vcc := .normal, phase := if s.pins.rstnLow then .held else .counting } }) ∧
  (∀ (c : Instr) (s : State), s.pins.phase ≠ .up →
    exec c s = .next s ∨ (∃ x, c = .powerOnReset x) ∨ (∃ x, c = .resetRelease x) ∨ c = .resetEnd ∨
      ∃ x, c = .vccFltDriveThreshold x)

/-- The node drives FLT low exactly when VCC is at least 1.5 V and one of the six conditions holds (R209). -/
def Obligations.FaultLineLevel : Prop :=
  ∀ s : State, s.fltLow = true ↔ s.pins.vcc ≠ .below15 ∧
    ((s.pins.rstnLow = true ∨ s.pins.phase ≠ .up) ∨
      s.parcels.startMark = true ∨
      (∃ i : Fin 63, (s.diag.records[i].state = .confirmed ∨ s.diag.records[i].state = .recovering) ∧
        drivePolicy s.tables.drive.active (i.val % 16) ≠ .quiet) ∨
      (s.thermal.band = .hot ∨ s.thermal.band = .critical) ∨
      s.supply.state = .low ∨
      s.watch.state = .fallback)

/-- VCC crossing 1.5 V: below it the output stands at high impedance, from it upward the reset condition holds the output
low; the crossings change nothing else while the reset lasts (R209). From normal the fall begins a power-on reset as well,
which is the model's reading (log entry 15; the values during the reset: log entries 2, 3, 4, 14 and 24). -/
def Obligations.VccThresholdGovernsFaultLine : Prop :=
  (∀ s : State, s.pins.vcc ≠ .normal → exec (.vccFltDriveThreshold .falling) s =
    .next { s with pins := { s.pins with vcc := .below15 } }) ∧
  (∀ s : State, s.pins.vcc = .normal → exec (.vccFltDriveThreshold .falling) s = .next
    { State.reset with
      link := { State.reset.link with doQueue := [] }
      drive := { State.reset.drive with running := false }
      pins := { rstnLow := s.pins.rstnLow, vcc := .below15, phase := .held }
      freeUses := s.freeUses
      pending := s.pending }) ∧
  (∀ s t : State, exec (.vccFltDriveThreshold .falling) s = .next t → t.fltLow = false) ∧
  (∀ s : State, s.pins.vcc = .below15 → exec (.vccFltDriveThreshold .rising) s =
    .next { s with pins := { s.pins with vcc := .below27 } }) ∧
  (∀ s t : State, s.pins.vcc = .below15 → s.pins.phase ≠ .up →
    exec (.vccFltDriveThreshold .rising) s = .next t → t.fltLow = true)

/-! ### Flow symbols and the DO lane -/

/-- A flow symbol on DI is recorded in whatever state the receiver is and changes nothing else (R46). The 1 ms repeat sends
the asked-for flow state while no sweep is open on DO (R45), FLOW-HOLD exactly while the pass buffer holds 2 messages or
more (R143); a full DO queue drops it (R23), and inside a sweep no symbol is sent. That the symbol names the state asked
for when it joins the DO queue is the model's choice (log entry 12). -/
def Obligations.FlowSymbolsRecordedAndRepeated : Prop :=
  (∀ (s : State) (f : Flow), Up s →
    exec (.diFlowSymbol f) s = .next { s with link := { s.link with flowIn := f } }) ∧
  (∀ s : State, Up s → s.link.rx = .waitStart ∨ s.link.rx = .skip → exec .flowSymbolRepeat s = .next
      { s with link := queued s.link [.flow (if 2 ≤ s.ret.pass.length then .hold else .go)] }) ∧
  (∀ s : State, Up s → s.link.rx ≠ .waitStart → s.link.rx ≠ .skip → exec .flowSymbolRepeat s = .next s)

/-- At each symbol time the oldest symbol of the DO queue goes out on DO, or IDLE when the queue is empty. Every other
command leaves the symbols that wait as they are and adds its own at the tail; a queue that holds 16 takes none, and a
dropped word enters no outbound check (START alone sets the check anew). A word of the sweep in flight that is dropped, and
a dropped symbol of a closing, makes the framing not exact; the receiver goes on as ever (R23, R25). That a word which comes
under any of the six word commands counts here, whatever the receiver awaits, is the model's choice (log entry 8: a word is
taken as the receiver state says). -/
def Obligations.DoQueueSendsOldestAndDropsWhenFull : Prop :=
  (∀ (s : State) (x : Symbol) (rest : List Symbol), Up s → s.link.doQueue = x :: rest →
    exec .doSymbolTime s = .next { s with link := { s.link with doLane := x, doQueue := rest } }) ∧
  (∀ s : State, Up s → s.link.doQueue = [] →
    exec .doSymbolTime s = .next { s with link := { s.link with doLane := .idle } }) ∧
  (∀ (c : Instr) (s t : State), exec c s = .next t → ¬ beginsReset c s → c ≠ .doSymbolTime →
    ∃ xs, t.link.doQueue = s.link.doQueue ++ xs ∧
      (16 ≤ s.link.doQueue.length → xs = [] ∧ (c ≠ .diStart → t.link.outCrc = s.link.outCrc))) ∧
  (∀ (s : State) (got : List Word) (w : Word), Up s → s.link.rx = .header got → got.length < 2 →
    16 ≤ s.link.doQueue.length → exec (.diHeaderWord w) s = .next
      { s with link := { s.link with
          rx := .header (got ++ [w]), inCrc := crcWord s.link.inCrc w, framingExact := false } }) ∧
  (∀ (c : Instr) (s t : State) (w : Word), Up s → diWord c = some w → SendsOn s.link.rx →
    16 ≤ s.link.doQueue.length → exec c s = .next t → t.link.framingExact = false) ∧
  (∀ s t : State, Up s → s.link.rx ≠ .waitStart → s.link.rx ≠ .skip → 16 < s.link.doQueue.length + 4 →
    exec .diEnd s = .next t → t.link.framingExact = false)

/-! ### Sweeps on DI -/

/-- Header words 0 and 2 make a valid header of a kind exactly when the kind code is one of the four, the six spare bits
are zero, HOLD is clear unless the kind is DATA, P is at most 4096, and P and Q satisfy the kind. The header is checked
when its third word arrives, the sweep number is not checked, and the receiver skips exactly an invalid one (R22). -/
def Obligations.HeaderValidity : Prop :=
  (∀ (w0 w2 : Word) (k : SweepKind), judgeHeader w0 w2 = some k ↔
    w0.toNat / 32 % 64 = 0 ∧ w2.toNat ≤ 4096 ∧
      match k with
      | .data => w0.toNat / 4096 = 1
      | .latch => w0.toNat / 4096 = 2 ∧ w0.toNat / 2048 % 2 = 0 ∧ w2.toNat = 0
      | .manage => w0.toNat / 4096 = 3 ∧ w0.toNat / 2048 % 2 = 0 ∧ w2.toNat = 0
      | .enum => w0.toNat / 4096 = 4 ∧ w0.toNat / 2048 % 2 = 0 ∧ w2.toNat = 1 ∧ w0.toNat % 32 = 0) ∧
  (∀ (s : State) (w0 w1 w2 : Word), Up s → s.link.rx = .header [w0, w1] → ∃ t,
    exec (.diHeaderWord w2) s = .next t ∧ (t.link.rx = .skip ↔ judgeHeader w0 w2 = none))

/-- START begins a sweep: both checks at 0xFFFF, void mark clear, framing exact, START on DO, HEADER (R25, R40). In HEADER
to WAIT-END it first closes the outgoing sweep with check word, POISON, END and a flow symbol, and ends the sweep in
flight bad if that had its header acceptance (R36, R39, R45). What finds the DO queue full is dropped (R23). Choices of the
model: the flow symbol names the state asked for when it joins the queue (log entry 12), and a dropped START leaves the
framing of the new sweep not exact (log entry 13). -/
def Obligations.StartBeginsSweep : Prop :=
  (∀ s : State, Up s → s.link.rx = .waitStart ∨ s.link.rx = .skip → exec .diStart s = .next
      { s with link := { queued s.link [.startSym] with
          rx := .header [], inCrc := 0xFFFF, outCrc := 0xFFFF, voidMark := false
          framingExact := decide (s.link.doQueue.length < 16) } }) ∧
  (∀ (s : State) (got : List Word), Up s → s.link.rx = .header got → exec .diStart s = .next
      { s with link := { queued s.link
            [.word s.link.outCrc, .word 0xA53C, .endSym, .flow s.asked, .startSym] with
          rx := .header [], inCrc := 0xFFFF, outCrc := 0xFFFF, voidMark := false
          framingExact := decide (s.link.doQueue.length + 5 ≤ 16) } }) ∧
  (∀ (s : State) (sw : Sweep), Up s → acceptedSweep s.link.rx = some sw → exec .diStart s = .next
      { afterBadEnd sw s with link := { queued s.link
            [.word s.link.outCrc, .word 0xA53C, .endSym, .flow s.asked, .startSym] with
          rx := .header [], inCrc := 0xFFFF, outCrc := 0xFFFF, voidMark := false
          framingExact := decide (s.link.doQueue.length + 5 ≤ 16) } })

/-- Header words 0 and 1 are forwarded unchanged and enter both running checks; nothing else changes (R26, R32). An invalid
header is forwarded and closed at once with check word, POISON, END and a flow symbol, and the rest of the sweep is
skipped; there is no swap, no clearing of staged marks and no account (R28, R45). What finds the DO queue full is dropped
and leaves the framing not exact (R23). That the flow symbol names the state asked for when it joins the queue is the
model's choice (log entry 12). -/
def Obligations.HeaderWordsForwardedAndInvalidClosed : Prop :=
  (∀ (s : State) (got : List Word) (w : Word), Up s → s.link.rx = .header got → got.length < 2 →
    exec (.diHeaderWord w) s = .next
      { s with link := { sentOn s.link w with rx := .header (got ++ [w]), inCrc := crcWord s.link.inCrc w } }) ∧
  (∀ (s : State) (w0 w1 w2 : Word), Up s → s.link.rx = .header [w0, w1] → judgeHeader w0 w2 = none →
    exec (.diHeaderWord w2) s = .next
      { s with link := { closedWith 0xA53C s.asked (sentOn s.link w2) with
          rx := .skip, inCrc := crcWord s.link.inCrc w2 } })

/-- At header acceptance every pending section is swapped first, the map then active governs the sweep, the staged marks are
cleared for a DATA sweep, the account is opened, header word 2 goes on as the forwarded payload count of a DATA sweep,
which the receiver records, or as received, and the receiver goes to PAYLOAD, PARCELS or TRAILER by P and Q (R5, R13, R23,
R26, R27, R48, R102). That the recorded count stays through a sweep of another kind is the model's choice (log entry 26). -/
def Obligations.HeaderAcceptance : Prop :=
  ∀ (s : State) (w0 w1 w2 : Word) (k : SweepKind), Up s → s.link.rx = .header [w0, w1] →
    judgeHeader w0 w2 = some k → ∃ (t : State) (sw : Sweep) (n : Nat), exec (.diHeaderWord w2) s = .next t ∧
      Swapped s.tables.map t.tables.map ∧ Swapped s.tables.curves t.tables.curves ∧
      Swapped s.tables.drive t.tables.drive ∧ Swapped s.tables.policy t.tables.policy ∧
      sw = { kind := k, hold := decide (w0.toNat / 2048 % 2 = 1), p := w2.toNat, q := w0.toNat % 32, num := w1,
             map := mapEntries t.tables.map.active, enumAddr := none } ∧
      n = (if k = .data then forwardedCount (mapEntries t.tables.map.active) w2.toNat else w2.toNat) ∧
      t = { s with
        tables := t.tables
        levels := if k = .data then unstaged s.levels else s.levels
        parcels := { s.parcels with account := some { closed := false, unstored := 0, firstTag := none } }
        link := { sentOn s.link (BitVec.ofNat 16 n) with
          rx := if 0 < sw.p then .payload sw 0 else if 0 < sw.q then .parcels sw sw.q .addressWord else .trailer sw none
          inCrc := crcWord s.link.inCrc w2
          fwdCount := if k = .data then n else s.link.fwdCount } }

/-- At each header acceptance every pending section is swapped and the others stay as they are, whatever the kind of the
sweep, the address or the void mark; an invalid header makes no swap (R102). That a word is taken as the receiver state says,
under whichever of the six word commands it comes, is the model's choice (log entry 8). -/
def Obligations.SwapAtHeaderAcceptance : Prop :=
  ∀ (c : Instr) (s : State) (w0 w1 w2 : Word), Up s → diWord c = some w2 → s.link.rx = .header [w0, w1] →
    ∃ t, exec c s = .next t ∧
      if (judgeHeader w0 w2).isSome then
        Swapped s.tables.map t.tables.map ∧ Swapped s.tables.curves t.tables.curves ∧
          Swapped s.tables.drive t.tables.drive ∧ Swapped s.tables.policy t.tables.policy
      else t.tables = s.tables

/-- The entries in force of a valid MAP have lengths 1 to 16 and curves 0 to 4, stay within 4096 positions and sixteen
channels, stand in ascending start order, and share no position and no channel (R2, R90, R91). Under a valid map the
forwarded payload count of a DATA sweep is the P received minus the number of positions below P covered by take entries
(R13). -/
def Obligations.ValidMapEntriesAndForwardedCount : Prop :=
  (∀ v : Vector Word 49, MapValid v →
    (∀ e ∈ mapEntries v, 1 ≤ e.length ∧ e.length ≤ 16 ∧ e.curve ≤ 4 ∧ e.start + e.length ≤ 4096 ∧
      e.first + e.length ≤ 16) ∧
    (mapEntries v).Pairwise (fun a b => a.start + a.length ≤ b.start ∧
      (a.first + a.length ≤ b.first ∨ b.first + b.length ≤ a.first)) ∧
    (mapEntries v).length ≤ 24) ∧
  (∀ (v : Vector Word 49) (p : Nat), MapValid v →
    forwardedCount (mapEntries v) p =
      p - ((List.range p).filter fun k => (mapEntries v).any fun e => e.take && e.covers k).length)

/-- A payload word of a DATA sweep: uncovered, it goes on unchanged; covered, it is staged against its entry's channel, and
goes on unless the entry takes it (R9, R12, R29, R32, R49). A word that finds the DO queue full is dropped and leaves the
framing not exact (R23). -/
def Obligations.DataWordMatched : Prop :=
  ∀ (s : State) (sw : Sweep) (k : Nat) (w : Word), Up s → s.link.rx = .payload sw k → sw.kind = .data →
    ∃ next : Rx,
      next = (if k + 1 < sw.p then .payload sw (k + 1)
        else if 0 < sw.q then .parcels sw sw.q .addressWord else .trailer sw none) ∧
      exec (.diPayloadWord w) s = .next
        (match sw.map.find? (fun e => e.covers k) with
        | none =>
          { s with link := { sentOn s.link w with rx := next, inCrc := crcWord s.link.inCrc w } }
        | some e =>
          { s with
            levels := Vector.ofFn fun c =>
              if c.val = e.first + (k - e.start) then { s.levels[c] with staged := w, stagedMark := true }
              else s.levels[c]
            link := if e.take then { s.link with rx := next, inCrc := crcWord s.link.inCrc w }
              else { sentOn s.link w with rx := next, inCrc := crcWord s.link.inCrc w } })

/-- The address word of an ENUM sweep goes on rewritten: A + 1 for A up to 253, else 255, with bits 15..8 zero; the
receiver keeps A; a full DO queue drops it, and the framing is not exact (R23, R30, R213). -/
def Obligations.EnumWordRewritten : Prop :=
  ∀ (s : State) (sw : Sweep) (w : Word), Up s → s.link.rx = .payload sw 0 → sw.kind = .enum → sw.p = 1 → sw.q = 0 →
    ∃ x : Word,
      x = BitVec.ofNat 16 (if w.toNat % 256 ≤ 253 then w.toNat % 256 + 1 else 255) ∧
      exec (.diPayloadWord w) s = .next
        { s with link := { sentOn s.link x with
            rx := .trailer { sw with enumAddr := some (BitVec.ofNat 8 w.toNat) } none
            inCrc := crcWord s.link.inCrc w } }

/-- The address word of a parcel goes on unchanged, and its target decides with the node address of this moment whether
the parcel is filtered in (R31, R109, R110). A body word goes on unchanged; it is stored after its parcel at the tail of
the buffer when that parcel is stored, and changes no parcel when it is not (R31, R112). A word that finds the DO queue full
is dropped and leaves the framing not exact (R23). -/
def Obligations.ParcelAddressAndBodyWords : Prop :=
  (∀ (s : State) (sw : Sweep) (left : Nat) (w : Word), Up s → s.link.rx = .parcels sw left .addressWord →
    exec (.diParcelWord w) s = .next
      { s with link := { sentOn s.link w with
          inCrc := crcWord s.link.inCrc w
          rx := .parcels sw left (.kindLenWord (BitVec.ofNat 8 (w.toNat / 256)) (BitVec.ofNat 8 w.toNat)
            (if w.toNat / 256 = 255 then some .broadcast
              else if w.toNat / 256 = s.link.address.toNat then some .addressed else none)) } }) ∧
  (∀ (s : State) (sw : Sweep) (left n : Nat) (storing : Bool) (w : Word), Up s →
    s.link.rx = .parcels sw left (.bodyWord n storing) → ∃ l : Link,
      l = { sentOn s.link w with
        inCrc := crcWord s.link.inCrc w
        rx := if 1 < n then .parcels sw left (.bodyWord (n - 1) storing)
          else if 1 < left then .parcels sw (left - 1) .addressWord else .trailer sw none } ∧
      (storing = false ∨ s.parcels.buffer = [] → exec (.diParcelWord w) s = .next { s with link := l }) ∧
      (∀ front p, storing = true → s.parcels.buffer = front ++ [p] → exec (.diParcelWord w) s = .next
        { s with
          link := l
          parcels := { s.parcels with buffer := front ++ [{ p with body := p.body ++ [w] }] } }))

/-- A filtered-in parcel is stored at its kind-and-length word when its sweep's account is not closed, fewer than 8 parcels
are held and its body fits into 256 words; else it is counted as unstored, the account is closed to storage, and the tag
of the first addressed one is kept; a parcel filtered out is not stored and not counted (R31, R109, R112, R113). The word
goes on, or a full DO queue drops it and the framing is not exact (R23). -/
def Obligations.ParcelStoredOrUnstored : Prop :=
  ∀ (s : State) (sw : Sweep) (left : Nat) (target tag : Byte) (std : Option Standing) (w : Word) (a : Account), Up s →
    s.link.rx = .parcels sw left (.kindLenWord target tag std) → s.parcels.account = some a →
    ∃ (fits : Bool) (after : Bool → Rx),
      (fits = true ↔ a.closed = false ∧ s.parcels.buffer.length < 8 ∧
        (s.parcels.buffer.map fun p => p.len).sum + w.toNat % 256 ≤ 256) ∧
      (∀ b, after b = if w.toNat % 256 = 0 then
          (if 1 < left then .parcels sw (left - 1) .addressWord else .trailer sw none)
        else .parcels sw left (.bodyWord (w.toNat % 256) b)) ∧
      exec (.diParcelWord w) s = .next
        { s with
          link := { sentOn s.link w with rx := after (std.isSome && fits), inCrc := crcWord s.link.inCrc w }
          parcels := match std with
            | none => s.parcels
            | some st =>
              if fits then
                { s.parcels with buffer := s.parcels.buffer ++
                  [{ target := target, tag := tag, kind := BitVec.ofNat 8 (w.toNat / 256), len := w.toNat % 256
                     body := [], sweepNum := sw.num, standing := st, executable := false }] }
              else
                { s.parcels with
                  account := some {
                    closed := true, unstored := a.unstored + 1
                    firstTag := if a.firstTag.isNone ∧ st = .addressed then some tag else a.firstTag } } }

/-- In TRAILER the check word is compared with the inbound running check, then the mark word is read as CLEAN exactly when
it is 0x5AC3; neither is forwarded nor enters a check (R32, R33, R215). -/
def Obligations.TrailerWords : Prop :=
  ∀ (s : State) (sw : Sweep) (w : Word), Up s →
    (s.link.rx = .trailer sw none → exec (.diTrailerWord w) s = .next
      { s with link := { s.link with rx := .trailer sw (some (decide (w = s.link.inCrc))) } }) ∧
    (∀ ok, s.link.rx = .trailer sw (some ok) → exec (.diTrailerWord w) s = .next
      { s with link := { s.link with rx := .waitEnd sw ok (decide (w = 0x5AC3)) } })

/-- A word after the mark word makes the framing not exact and changes nothing else (R38). A word in WAIT-START or SKIP is
discarded; END in WAIT-START is ignored, and in SKIP it returns the receiver to WAIT-START and sends nothing (R25, R40). -/
def Obligations.SymbolsOutsideSweep : Prop :=
  (∀ (s : State) (sw : Sweep) (c m : Bool) (w : Word), Up s → s.link.rx = .waitEnd sw c m →
    exec (.diExtraWord w) s = .next { s with link := { s.link with framingExact := false } }) ∧
  (∀ (s : State) (w : Word), Up s → s.link.rx = .waitStart ∨ s.link.rx = .skip →
    exec (.diDiscardedWord w) s = .next s) ∧
  (∀ s : State, Up s → s.link.rx = .waitStart → exec .diEnd s = .next s) ∧
  (∀ s : State, Up s → s.link.rx = .skip → exec .diEnd s = .next { s with link := { s.link with rx := .waitStart } })

/-- The sweep is good at END in WAIT-END when its framing is exact, its check word matched, its mark was CLEAN and it is not
void. Then the node sends its check word, CLEAN, END and a flow symbol, as far as the DO queue has room; a plain DATA sweep
brings the staged levels into force, a HOLD DATA sweep parks them, a LATCH brings the held levels into force, an ENUM
gives the address; DATA and LATCH refresh the link watch; the sweep's parcels become executable, the account is closed and
the last good sweep number follows (R23, R34, R35, R41, R42, R45, R51, R52, R54, R114, R189). That the flow symbol names the
state asked for when it joins the DO queue is the model's choice (log entry 12). A sweep that owes no PARCEL-OVERFLOW
reply, is no return and gives no unaddressed node an address with a notice pending queues no message. -/
def Obligations.GoodSweepEnd : Prop :=
  ∀ (s : State) (sw : Sweep), Up s → s.link.rx = .waitEnd sw true true → s.link.framingExact = true →
    s.link.voidMark = false → ∃ t, exec .diEnd s = .next t ∧
    t.link = { closedWith 0x5AC3 s.asked s.link with
      rx := .waitStart
      lastGood := sw.num
      address := if sw.kind = .enum then sw.enumAddr.getD s.link.address else s.link.address } ∧
    t.parcels = { s.parcels with
      buffer := s.parcels.buffer.map fun p => { p with executable := true }
      account := none } ∧
    (∀ c : Fin 16, t.levels[c] =
      let l := s.levels[c]
      match sw.kind with
      | .data =>
        if l.stagedMark then
          if sw.hold then { l with held := l.staged, heldMark := true, stagedMark := false }
          else { l with active := l.staged, heldMark := false, stagedMark := false }
        else l
      | .latch => if l.heldMark then { l with active := l.held, heldMark := false } else l
      | .manage => l
      | .enum => l) ∧
    t.watch = (if sw.kind = .data ∨ sw.kind = .latch then
        { state := .live, holdTimer := none
          watchTimer := if polW s.tables.policy.active = 0 then none
            else some (polW s.tables.policy.active * 10) }
      else s.watch) ∧
    t.tables = s.tables ∧ t.drive = s.drive ∧ t.diag.records = s.diag.records ∧ t.diag.latches = s.diag.latches ∧
    t.thermal = s.thermal ∧ t.supply = s.supply ∧ t.snap = s.snap ∧ t.pins = s.pins ∧ t.ret.pass = s.ret.pass ∧
    t.ret.ri = s.ret.ri ∧ t.ret.ro = s.ret.ro ∧ t.ret.passCount = s.ret.passCount ∧
    ((∀ a, s.parcels.account = some a → a.firstTag = none) →
      (sw.kind = .data ∨ sw.kind = .latch → s.watch.state = .live ∨ s.watch.state = .silent) →
      (sw.kind = .enum → s.link.address = 255 → ∀ k, noticePending s k = false) →
      t.ret = s.ret ∧ t.diag = s.diag)

/-- A good sweep end whose account keeps a tag queues the PARCEL-OVERFLOW reply with that tag and the number of unstored
parcels, or, when the queue holds 8 messages, sets the LOST mark (R113, R114, R120). A good DATA or LATCH sweep end in
HOLDOVER or FALLBACK is a return: the link goes LIVE and the LINK flag is set with the state it left; the LINK notice then
joins at once if it can, and else the flag stays set (R137, R140, R189, R193). A good ENUM sweep end that gives an
unaddressed node an address lets the waiting notices join (R137). Where a sweep end owes a reply and lets notices join,
either may join first (R134; log entry 6). -/
def Obligations.GoodEndQueuesItsMessage : Prop :=
  ∀ (s : State) (sw : Sweep), Up s → s.link.rx = .waitEnd sw true true → s.link.framingExact = true →
    s.link.voidMark = false → ∃ (t raised : State) (returns : Prop), exec .diEnd s = .next t ∧
      (returns ↔ (sw.kind = .data ∨ sw.kind = .latch) ∧ (s.watch.state = .holdover ∨ s.watch.state = .fallback)) ∧
      (returns → t.watch.state = .live ∧
        raised = { t with diag := s.diag, ret := { s.ret with linkFlag := true, prevLink := s.watch.state } }) ∧
      (¬ returns → raised = { t with diag := s.diag, ret := s.ret }) ∧
      ((∀ a, s.parcels.account = some a → a.firstTag = none) → returns ∨ (sw.kind = .enum ∧ s.link.address = 255) →
        t.ret = (noticesJoined raised).ret ∧ t.diag = (noticesJoined raised).diag) ∧
      (∀ a tag, s.parcels.account = some a → a.firstTag = some tag →
        (¬ (returns ∨ (sw.kind = .enum ∧ s.link.address = 255)) →
          t.ret = (overflowReplied tag a.unstored raised).ret ∧ t.diag = s.diag) ∧
        (returns ∨ (sw.kind = .enum ∧ s.link.address = 255) → ∃ u,
          (u = noticesJoined (overflowReplied tag a.unstored raised) ∨
            u = overflowReplied tag a.unstored (noticesJoined raised)) ∧ t.ret = u.ret ∧ t.diag = u.diag)) ∧
      (returns → (∀ a, s.parcels.account = some a → a.firstTag = none) → RoomForNotice s .link →
        OnlyPending s [.link] → t.ret = { s.ret with
          queue := s.ret.queue ++ [noticeMsg s .link [BitVec.ofNat 16 (1 + 16 * s.watch.state.value)]]
          lost := false, linkFlag := false, prevLink := s.watch.state }) ∧
      (returns → (∀ a, s.parcels.account = some a → a.firstTag = none) →
        s.link.address = 255 ∨ 6 ≤ s.ret.queue.length →
        t.ret = { s.ret with linkFlag := true, prevLink := s.watch.state })

/-- A sweep that fails any condition at END in WAIT-END, and one that END cuts short, ends bad: staged marks cleared, the
sweep's own parcels removed, and neither levels in force, held set, link watch, address nor last good sweep number
changed; check word, POISON, END and a flow symbol go out, as far as the DO queue has room. In HEADER only the closing
happens (R23, R34, R36, R37, R38, R45, R53, R115, R190). That the flow symbol names the state asked for when it joins the DO
queue is the model's choice (log entry 12). -/
def Obligations.BadSweepEnd : Prop :=
  (∀ (s : State) (sw : Sweep), Up s → acceptedSweep s.link.rx = some sw →
    (∀ c m, s.link.rx = .waitEnd sw c m →
      s.link.framingExact = false ∨ c = false ∨ m = false ∨ s.link.voidMark = true) →
    exec .diEnd s = .next
      { afterBadEnd sw s with link := { closedWith 0xA53C s.asked s.link with rx := .waitStart } }) ∧
  (∀ (s : State) (got : List Word), Up s → s.link.rx = .header got →
    exec .diEnd s = .next { s with link := { closedWith 0xA53C s.asked s.link with rx := .waitStart } })

/-- The active copy and the generation of a section change only by the swap at a header acceptance that finds the section
pending, and at the beginning of a power-on reset (R86, R102). -/
def Obligations.ActiveCopiesChangeOnlyBySwap : Prop :=
  ∀ (c : Instr) (s t : State), exec c s = .next t → ¬ beginsReset c s →
    (t.tables.map.active = s.tables.map.active ∧ t.tables.map.gen = s.tables.map.gen ∧
      t.tables.curves.active = s.tables.curves.active ∧ t.tables.curves.gen = s.tables.curves.gen ∧
      t.tables.drive.active = s.tables.drive.active ∧ t.tables.drive.gen = s.tables.drive.gen ∧
      t.tables.policy.active = s.tables.policy.active ∧ t.tables.policy.gen = s.tables.policy.gen) ∨
    ((∃ w k, diWord c = some w ∧ headerKind s w = some k) ∧
      Swapped s.tables.map t.tables.map ∧ Swapped s.tables.curves t.tables.curves ∧
      Swapped s.tables.drive t.tables.drive ∧ Swapped s.tables.policy t.tables.policy)

/-- A channel's active level changes only at a good DATA or LATCH sweep end, at the execution of a RESTART, and at the
beginning of a power-on reset; the node address only at a good ENUM sweep end, and the last good sweep number only at a
good sweep end, and at the beginning of a power-on reset (R41, R42, R56, R64). -/
def Obligations.LevelsChangeOnlyAtSweepEnds : Prop :=
  ∀ (c : Instr) (s t : State), exec c s = .next t → ¬ beginsReset c s →
    (∀ ch : Fin 16, t.levels[ch].active = s.levels[ch].active) ∧ t.link.address = s.link.address ∧
        t.link.lastGood = s.link.lastGood ∨
      (c = .restart ∧ t.link.address = s.link.address ∧ t.link.lastGood = s.link.lastGood) ∨
      (c = .diEnd ∧ ∃ sw, s.link.rx = .waitEnd sw true true ∧ s.link.framingExact = true ∧ s.link.voidMark = false ∧
        t.link.lastGood = sw.num ∧ (sw.kind ≠ .enum → t.link.address = s.link.address) ∧
        (sw.kind = .manage ∨ sw.kind = .enum → t.levels = s.levels))

/-! ### Parcels -/

/-- An addressed PING that has its turn is answered DONE with the node address and the part code (R128, R212). An addressed
ACK-START clears the start mark, keeps its cause, and is answered DONE (R200). -/
def Obligations.PingAndAckStart : Prop :=
  (∀ (s : State) (p : Parcel) (rest : List Parcel), AddressedTurn s .ping p rest →
    exec .ping s = .next
      (answered s p rest .done false [BitVec.ofNat 16 s.link.address.toNat, 0x7A16])) ∧
  (∀ (s : State) (p : Parcel) (rest : List Parcel), AddressedTurn s .ackStart p rest →
    exec .ackStart s = .next (answered
      { s with
        parcels := { s.parcels with
          startMark := false
          history := historyAfter s.parcels.history .ackStart p.tag .done } }
      p rest .done false []))

/-- An addressed STATUS is answered DONE with its ten words: address, start mark and cause; link state, band, highest band,
supply state, supply-low mark; the four generations; frozen and pending set; isolation bitmap; the standing and the seen
count (R129, R173, R212). -/
def Obligations.StatusAnswered : Prop :=
  ∀ (s : State) (p : Parcel) (rest : List Parcel), AddressedTurn s .status p rest →
    ∃ w0 w1 w6 w7 w8 w9 : Word, exec .status s = .next (answered s p rest .done false
        [w0, w1, s.tables.map.gen, s.tables.curves.gen, s.tables.drive.gen, s.tables.policy.gen, w6, w7, w8, w9]) ∧
      SaysStart s w0 ∧ SaysMonitors s w1 ∧ SaysMarks s w6 ∧ SaysIsolation s w7 ∧
      w8.toNat = ((List.finRange 63).filter fun i => s.diag.records[i].state.standing).length ∧
      w9.toNat = ((List.finRange 63).filter fun i => s.diag.records[i].seen).length

/-- An addressed WRITE: REFUSED-FROZEN, REFUSED-PENDING and REFUSED-RANGE in that order of checks, each writing nothing;
else the data words stand in the shadow copy from the offset on, every other word of every copy and every mark and
generation are as before, and the reply is DONE (R96, R124, R212). -/
def Obligations.WriteChecksThenStores : Prop :=
  ∀ (s : State) (p : Parcel) (rest : List Parcel), AddressedTurn s .write p rest → Whole p →
    ∃ (c : SecCode) (off : Nat) (data : List Word) (tables : Tables) (code : ResultCode) (body : List Word),
      c.value = (p.body.getD 0 0).toNat / 16384 ∧ off = (p.body.getD 0 0).toNat % 128 ∧ data = p.body.drop 1 ∧
      data.length = p.len - 1 ∧
      exec .write s = .next (answered
        { s with
          tables := tables
          parcels := { s.parcels with history := historyAfter s.parcels.history .write p.tag code } }
        p rest code false body) ∧
      if s.tables.frozen c then code = .refusedFrozen ∧ body = [BitVec.ofNat 16 c.value] ∧ tables = s.tables
      else if s.tables.pendingMark c then
        code = .refusedPending ∧ body = [BitVec.ofNat 16 c.value] ∧ tables = s.tables
      else if c.size < off + data.length then code = .refusedRange ∧ body = [] ∧ tables = s.tables
      else code = .done ∧ body = [] ∧
        (∀ i, i < data.length → (tables.copyWords c true).getD (off + i) 0 = data.getD i 0) ∧
        (∀ d o, d ≠ c ∨ o < off ∨ off + data.length ≤ o →
          (tables.copyWords d true).getD o 0 = (s.tables.copyWords d true).getD o 0) ∧
        ∀ d, tables.copyWords d false = s.tables.copyWords d false ∧ tables.gen d = s.tables.gen d ∧
          tables.frozen d = s.tables.frozen d ∧ tables.pendingMark d = s.tables.pendingMark d

/-- An addressed READ of 1 to 32 words inside the section is answered DONE with the words of the named copy from the
offset on; else REFUSED-RANGE. READ-SNAPSHOT does the same on the image of 74 words, after REFUSED-NONE for an image
that is not valid. Neither changes anything but the buffer and the queue (R97, R207, R212). -/
def Obligations.ReadsAnswered : Prop :=
  (∀ (s : State) (p : Parcel) (rest : List Parcel), AddressedTurn s .read p rest →
    ∃ (c : SecCode) (off n : Nat) (shadow : Bool), c.value = (p.body.getD 0 0).toNat / 16384 ∧
      off = (p.body.getD 0 0).toNat % 128 ∧ n = (p.body.getD 1 0).toNat ∧
      (shadow = true ↔ (p.body.getD 0 0).toNat / 8192 % 2 = 1) ∧
      exec .read s = .next
        (if n = 0 ∨ 32 < n ∨ c.size < off + n then answered s p rest .refusedRange false []
        else answered s p rest .done false
          ((List.range n).map fun i => (s.tables.copyWords c shadow).getD (off + i) 0))) ∧
  (∀ (s : State) (p : Parcel) (rest : List Parcel), AddressedTurn s .readSnapshot p rest →
    ∃ (off n : Nat), off = (p.body.getD 0 0).toNat ∧ n = (p.body.getD 1 0).toNat ∧
      exec .readSnapshot s = .next
        (if s.snap.valid = false then answered s p rest .refusedNone false []
        else if n = 0 ∨ 32 < n ∨ 74 < off + n then answered s p rest .refusedRange false []
        else answered s p rest .done false ((List.range n).map fun i => s.snap.image.toList.getD (off + i) 0)))

/-- An addressed COMMIT acts all or none on its set in the order MAP, CURVES, DRIVE, POLICY: an empty set gives DONE; the
first section that is frozen, pending or not valid refuses it, with the offset of the first offending word; else every
section of the set becomes pending, nothing else of any section changes, and ACCEPTED carries the generation each
section will hold after the next swap (R90, R99, R100). -/
def Obligations.CommitAllOrNone : Prop :=
  ∀ (s : State) (p : Parcel) (rest : List Parcel), AddressedTurn s .commit p rest →
    ∃ (set : List SecCode) (tables : Tables) (code : ResultCode) (body : List Word),
      set = sectionsNamed (p.body.getD 0 0) ∧
      exec .commit s = .next (answered
        { s with
          tables := tables
          parcels := { s.parcels with history := historyAfter s.parcels.history .commit p.tag code } }
        p rest code false body) ∧
      ((set = [] ∧ code = .done ∧ body = [] ∧ tables = s.tables) ∨
        (set ≠ [] ∧ (∀ c ∈ set, PassesCommit s.tables c) ∧ code = .accepted ∧
          (∀ d, SameContent s.tables tables d ∧ tables.frozen d = s.tables.frozen d ∧
            (tables.pendingMark d = true ↔ s.tables.pendingMark d = true ∨ d ∈ set)) ∧
          body = [SecCode.map, .curves, .drive, .policy].map fun d =>
            if tables.pendingMark d then (if tables.gen d = 65535 then 1 else tables.gen d + 1) else tables.gen d) ∨
        (∃ pre c post, set = pre ++ c :: post ∧ (∀ d ∈ pre, PassesCommit s.tables d) ∧ tables = s.tables ∧
          ((s.tables.frozen c = true ∧ code = .refusedFrozen ∧ body = [BitVec.ofNat 16 c.value]) ∨
            (s.tables.frozen c = false ∧ s.tables.pendingMark c = true ∧ code = .refusedPending ∧
              body = [BitVec.ofNat 16 c.value]) ∨
            (s.tables.frozen c = false ∧ s.tables.pendingMark c = false ∧ code = .refusedInvalid ∧
              ∃ o, o < c.size ∧ offendsAt s.tables c o = true ∧ (∀ i, i < o → offendsAt s.tables c i = false) ∧
                body = [BitVec.ofNat 16 c.value, BitVec.ofNat 16 o]))))

/-- An addressed DISCARD: the first section of the set that is frozen or pending refuses it and nothing changes; else the
shadow copy of every section of the set takes its active copy and nothing else of any section changes, and the reply is
DONE, also for an empty set (R98). -/
def Obligations.DiscardAllOrNone : Prop :=
  ∀ (s : State) (p : Parcel) (rest : List Parcel), AddressedTurn s .discard p rest →
    ∃ (set : List SecCode) (tables : Tables) (code : ResultCode) (body : List Word),
      set = sectionsNamed (p.body.getD 0 0) ∧
      exec .discard s = .next (answered
        { s with
          tables := tables
          parcels := { s.parcels with history := historyAfter s.parcels.history .discard p.tag code } }
        p rest code false body) ∧
      (((∀ c ∈ set, s.tables.frozen c = false ∧ s.tables.pendingMark c = false) ∧ code = .done ∧ body = [] ∧
          ∀ d, tables.copyWords d true = s.tables.copyWords d (decide (d ∉ set)) ∧
            tables.copyWords d false = s.tables.copyWords d false ∧ tables.gen d = s.tables.gen d ∧
            tables.frozen d = s.tables.frozen d ∧ tables.pendingMark d = s.tables.pendingMark d) ∨
        (∃ pre c post, set = pre ++ c :: post ∧
          (∀ d ∈ pre, s.tables.frozen d = false ∧ s.tables.pendingMark d = false) ∧ tables = s.tables ∧
          body = [BitVec.ofNat 16 c.value] ∧
          ((s.tables.frozen c = true ∧ code = .refusedFrozen) ∨
            (s.tables.frozen c = false ∧ s.tables.pendingMark c = true ∧ code = .refusedPending))))

/-- An addressed FREEZE sets the frozen mark of every section of its set, pending or not, and is answered DONE. A THAW is
answered DONE for a section that is not frozen, REFUSED-GEN with the section and its generation when the generations
differ, and else clears the frozen mark; neither changes anything else of any section (R106, R107). -/
def Obligations.FreezeAndThaw : Prop :=
  (∀ (s : State) (p : Parcel) (rest : List Parcel), AddressedTurn s .freeze p rest →
    ∃ tables : Tables, exec .freeze s = .next (answered
        { s with
          tables := tables
          parcels := { s.parcels with history := historyAfter s.parcels.history .freeze p.tag .done } }
        p rest .done false []) ∧
      ∀ d, SameContent s.tables tables d ∧ tables.pendingMark d = s.tables.pendingMark d ∧
        (tables.frozen d = true ↔ s.tables.frozen d = true ∨ d ∈ sectionsNamed (p.body.getD 0 0))) ∧
  (∀ (s : State) (p : Parcel) (rest : List Parcel), AddressedTurn s .thaw p rest →
    ∃ (c : SecCode) (tables : Tables) (code : ResultCode) (body : List Word),
      c.value = (p.body.getD 0 0).toNat / 16384 ∧
      exec .thaw s = .next (answered
        { s with
          tables := tables
          parcels := { s.parcels with history := historyAfter s.parcels.history .thaw p.tag code } }
        p rest code false body) ∧
      (∀ d, SameContent s.tables tables d ∧ tables.pendingMark d = s.tables.pendingMark d ∧
        (d ≠ c → tables.frozen d = s.tables.frozen d)) ∧
      if s.tables.frozen c = true ∧ s.tables.gen c ≠ p.body.getD 1 0 then
        code = .refusedGen ∧ body = [BitVec.ofNat 16 c.value, s.tables.gen c] ∧ tables.frozen c = true
      else code = .done ∧ body = [] ∧ tables.frozen c = false)

/-- An addressed CAPTURE takes all 74 words at its execution and sets the valid mark: last good sweep number, the words of
STATUS, the held-mark bitmap, for each channel displayed level, effective on-time and code, phase and curve, and the
state and seen mark of every record (R202 to R205, R212). -/
def Obligations.CaptureTakesImage : Prop :=
  ∀ (s : State) (p : Parcel) (rest : List Parcel), AddressedTurn s .capture p rest →
    ∃ image : Vector Word 74, exec .capture s = .next (answered
        { s with
          snap := { image := image, valid := true }
          parcels := { s.parcels with history := historyAfter s.parcels.history .capture p.tag .done } }
        p rest .done false []) ∧
      image[0] = s.link.lastGood ∧ SaysStart s image[1] ∧ SaysMonitors s image[2] ∧
      image[3] = s.tables.map.gen ∧ image[4] = s.tables.curves.gen ∧ image[5] = s.tables.drive.gen ∧
      image[6] = s.tables.policy.gen ∧ SaysMarks s image[7] ∧ SaysIsolation s image[8] ∧
      (∀ c : Fin 16, image[9].getLsbD c.val = s.levels[c].heldMark) ∧
      (∀ c : Fin 16, image[10 + 3 * c.val]? = some (s.displayed c) ∧
        image[11 + 3 * c.val]? = some (BitVec.ofNat 16 (s.effOnTime c)) ∧
        image[12 + 3 * c.val]? = some (BitVec.ofNat 16 ((driveCode s.tables.drive.active c.val).toNat
          + 256 * (drivePhase s.tables.drive.active c.val).val + 4096 * curveCode s.activeMap c.val))) ∧
      (∀ i : Fin 63, (wordAt image (58 + i.val / 4)).toNat / 16 ^ (i.val % 4) % 16 =
        s.diag.records[i].state.value + if s.diag.records[i].seen then 4 else 0) ∧
      image[73].toNat < 4096

/-- An addressed CLEAR-FAULTS: every selected record goes to CLEAR with run 0 and no seen mark, the others stay; a latch
that names a selected record is lifted and taken anew for the lowest record that stands after that and would affect the
channel under its policy now; the other latches and the changed set stay; THERMAL and SUPPLY set their marks to what is
in force; the reply is DONE (R166 to R169). -/
def Obligations.ClearFaultsClearsAndRelatches : Prop :=
  ∀ (s : State) (p : Parcel) (rest : List Parcel), AddressedTurn s .clearFaults p rest →
    ∃ (chan kind : Word) (diag : Diag), chan = p.body.getD 0 0 ∧ kind = p.body.getD 1 0 ∧
      exec .clearFaults s = .next (answered
        { s with
          diag := diag
          thermal := if kind.getLsbD 4 then { s.thermal with highest := s.thermal.band } else s.thermal
          supply := if kind.getLsbD 5 then { s.supply with lowMark := decide (s.supply.state = .low) } else s.supply
          parcels := { s.parcels with history := historyAfter s.parcels.history .clearFaults p.tag .done } }
        p rest .done false []) ∧
      diag.changed = s.diag.changed ∧
      (∀ i : Fin 63, diag.records[i] =
        if kind.getLsbD (i.val / 16) && chan.getLsbD (i.val % 16) then { state := .clear, run := 0, seen := false }
        else s.diag.records[i]) ∧
      ∀ c : Fin 16, match s.diag.latches[c] with
        | none => diag.latches[c] = none
        | some r =>
          if kind.getLsbD (r.val / 16) && chan.getLsbD (r.val % 16) then
            IsLowest diag.latches[c] fun i =>
              diag.records[i].state.standing = true ∧ Touches s.tables.drive.active i c
          else diag.latches[c] = some r

/-- A RESTART of body length 0 restarts every block in every state of the local reply queue. The flush empties the queue and
raises again exactly the notices that were pending or queued, and exactly the records of the changed set and of a queued
FAULT notice. The reply of an addressed RESTART joins first, DONE with the LOST flag clear; then every notice that can join
does so behind it, in the order FAULT, THERMAL, SUPPLY, LINK and with a body taken at this moment, a LINK notice reporting
SILENT and the previous link state kept; the others stay pending (R125 to R127, R137 to R140, R148, R198). That a parcel of
which only the address word has arrived counts as a later parcel, and keeps its standing, is the model's reading (log entry
25). -/
def Obligations.RestartRestartsEveryBlock : Prop :=
  ∀ (s : State) (p : Parcel) (rest : List Parcel), Turn s p rest → parcelKindOf p.kind = some .restart → p.len = 0 →
    ∃ (t flushed : State) (notices : List Msg), exec .restart s = .next t ∧ Restarted s t ∧ Restarted s flushed ∧
      flushed.ret.queue = (match p.standing with
        | .addressed => [{ source := s.link.address, lost := false, content := .reply p.tag .done false [] }]
        | .broadcast => []) ∧
      (∀ k, k ≠ .fault →
        (noticePending flushed k = true ↔ noticePending s k = true ∨ ∃ m ∈ s.ret.queue, m.noticeKind = some k)) ∧
      (∀ i : Fin 63, flushed.diag.changed[i] = true ↔ s.diag.changed[i] = true ∨ ListsRecord s.ret.queue i) ∧
      t = noticesJoined flushed ∧ notices = noticesInOrder flushed (joiningKinds flushed) ∧
      (∀ m ∈ notices, m.noticeKind.isSome = true) ∧
      t.ret.queue = flushed.ret.queue ++ notices ∧
      (∀ m ∈ t.ret.queue, m.noticeKind = some .link →
        m.content = .notice .link [BitVec.ofNat 16 (16 * s.ret.prevLink.value)]) ∧
      (∀ k, k ≠ .fault → (noticePending s k = true ∨ (∃ m ∈ s.ret.queue, m.noticeKind = some k) ↔
        noticePending t k = true ∨ ∃ m ∈ t.ret.queue, m.noticeKind = some k)) ∧
      ∀ i : Fin 63, s.diag.changed[i] = true ∨ ListsRecord s.ret.queue i ↔ t.diag.changed[i] = true ∨ ListsRecord t.ret.queue i

/-- Steps 1 to 4 of the execution of an addressed parcel: with 8 messages in the queue it is dropped and the LOST mark set,
but for a RESTART of length 0; a length that does not suit is answered BAD-LENGTH; a repeat of an entry of the history
is answered with the stored result, the REPEAT flag and an empty body. None of them executes the parcel (R118, R120,
R122, R123, R127). -/
def Obligations.ParcelRefusedBeforeExecution : Prop :=
  ∀ (s : State) (k : ParcelKind) (p : Parcel) (rest : List Parcel), Turn s p rest → p.standing = .addressed →
    parcelKindOf p.kind = some k →
    (8 ≤ s.ret.queue.length → (k = .restart → p.len ≠ 0) → exec (parcelCommand k) s = .next
      { s with parcels := { s.parcels with buffer := rest }, ret := { s.ret with lost := true } }) ∧
    (s.ret.queue.length < 8 → k.suits p.len = false →
      exec (parcelCommand k) s = .next (answered s p rest .badLength false [])) ∧
    (∀ e, HistorySound s → s.ret.queue.length < 8 → k.suits p.len = true → k.recorded = true → p.tag ≠ 0 →
      e ∈ s.parcels.history → e.tag = p.tag → e.kind = k →
      exec (parcelCommand k) s = .next (answered s p rest e.code true []))

/-- A broadcast parcel of an executed kind has the effect an addressed parcel of the same content would have, and owes no
reply: nothing joins the queue, the LOST mark stays, and the history is neither read nor written (R121). -/
def Obligations.BroadcastExecutesWithoutReply : Prop :=
  ∀ (s : State) (k : ParcelKind) (p : Parcel) (rest : List Parcel), BroadcastTurn s k p rest → k.runsBroadcast = true →
    k ≠ .restart → ∃ t u, exec (parcelCommand k) s = .next t ∧
      exec (parcelCommand k) { s with
        parcels := { s.parcels with buffer := { p with standing := .addressed, tag := 0 } :: rest }
        ret := { s.ret with queue := [] } } = .next u ∧
      t = { u with ret := s.ret }

/-- A broadcast PING, STATUS, READ, THAW or READ-SNAPSHOT, a broadcast parcel whose length does not suit its kind, and one
of unknown kind leave the buffer and have no effect; an addressed parcel of unknown kind is answered BAD-KIND, or dropped
with the LOST mark set when the queue is full (R118, R120, R121, R216). -/
def Obligations.IgnoredAndUnknownParcels : Prop :=
  (∀ (s : State) (k : ParcelKind) (p : Parcel) (rest : List Parcel), Turn s p rest → p.standing = .broadcast →
    parcelKindOf p.kind = some k → k ∈ [.ping, .status, .read, .thaw, .readSnapshot] ∨ k.suits p.len = false →
    exec (parcelCommand k) s = .next { s with parcels := { s.parcels with buffer := rest } }) ∧
  (∀ (s : State) (p : Parcel) (rest : List Parcel), Turn s p rest → parcelKindOf p.kind = none →
    exec .unknownKindParcel s = .next (match p.standing with
      | .broadcast => { s with parcels := { s.parcels with buffer := rest } }
      | .addressed =>
        if 8 ≤ s.ret.queue.length then
          { s with parcels := { s.parcels with buffer := rest }, ret := { s.ret with lost := true } }
        else answered s p rest .badKind false []))

/-! ### Cycles, drive and diagnostics -/

/-- A cycle start takes, for all sixteen channels together, the effective on-time presented, the current code and phase of
the active DRIVE section and the rate code, and sets every off-forced mark exactly in CRITICAL (R78, R80); while a cycle
runs none starts, which is the model's choice (R77; log entries 8 and 21). The four rate codes give 500, 1000, 2000 and 4000
cycles per second, 4096 counts each (R76). -/
def Obligations.CycleStartTakesValues : Prop :=
  (∀ s : State, Up s → s.drive.running = false → exec .cycleStart s = .next
    { s with
      drive := {
        running := true
        rate := driveRate s.tables.drive.active
        ch := Vector.ofFn fun c => {
          onTime := s.effOnTime c
          code := driveCode s.tables.drive.active c
          phase := drivePhase s.tables.drive.active c
          off := if s.thermal.band = .critical then .fromStart else .clear } } }) ∧
  (∀ s : State, s.drive.running = true → exec .cycleStart s = .next s) ∧
  (∀ r : Fin 4, cycleRate r = [500, 1000, 2000, 4000].getD r 0 ∧
    countClock r = [2048000, 4096000, 8192000, 16384000].getD r 0)

/-- The effective on-time is 0 while the channel holds an isolation latch, and else the displayed level through the curve of
the feeding entry, or RAW without one, times the derate factor, divided by 256; it is at most 4096. The displayed level
is the active level of a mapped channel in LIVE or HOLDOVER and the fallback level otherwise. The identity curve gives
what RAW gives (R17, R18, R58, R67, R68, R70, R71). -/
def Obligations.EffectiveOnTime : Prop :=
  (∀ (s : State) (c : Fin 16), TablesSound s → ∃ d : Nat,
    d = (match s.thermal.band with
      | .normal => 256
      | .warm => polDw s.tables.policy.active
      | .hot => polDh s.tables.policy.active
      | .critical => 0) ∧
    s.effOnTime c ≤ 4096 ∧
    (s.diag.latches[c].isSome = true → s.effOnTime c = 0) ∧
    (s.diag.latches[c] = none →
      (∀ e ∈ mapEntries s.tables.map.active, e.first ≤ c.val → c.val < e.first + e.length → ∃ x : Nat,
        x = (if s.watch.state = .live ∨ s.watch.state = .holdover then s.levels[c].active
          else polFallback s.tables.policy.active c).toNat ∧
        s.effOnTime c = (if e.curve = 4 then x / 16
          else curvePoint s.tables.curves.active e.curve (x / 4096) +
            (curvePoint s.tables.curves.active e.curve (x / 4096 + 1)
              - curvePoint s.tables.curves.active e.curve (x / 4096)) * (x % 4096) / 4096) * d / 256) ∧
      ((∀ e ∈ mapEntries s.tables.map.active, ¬ (e.first ≤ c.val ∧ c.val < e.first + e.length)) →
        s.effOnTime c = (polFallback s.tables.policy.active c).toNat / 16 * d / 256))) ∧
  (∀ (k : Nat) (x : Word), k < 4 → curveOnTime curvesWords0 k x = x.toNat / 16)

/-- An output conducts at a count of a running cycle by its taken values alone, and then sinks Imax × code / 255; Imax in mA is
1200 divided by the resistance at REF in kΩ, 60 below 20 kΩ, and 0 with REF open (R74, R75, R77, R79, R80). The conducting
runs handed to diagnostics hold exactly the counts at which the output conducts, the non-conducting runs exactly the others;
both ascend with a gap between neighbours, and there are at most two conducting runs. A channel at code 0, at on-time 0 or
off-forced from the start is handed none, one at on-time 4096 in a cycle not cut one of 4096 counts. The cut is handed with
its count when an entry into CRITICAL cut the cycle, and no run passes it; a cycle that began in CRITICAL hands none (R81,
R157). -/
def Obligations.ConductionRuns : Prop :=
  (∀ d : DriveCh, d.onTime ≤ 4096 →
    (∀ i, i < 4096 → ((∃ r ∈ d.onRuns, Holds r i) ↔ ConductsAt d i) ∧
      ((∃ r ∈ d.offRuns, Holds r i) ↔ ¬ ConductsAt d i)) ∧
    d.onRuns.length ≤ 2 ∧
    (d.onRuns.Pairwise fun a b => a.hi < b.lo) ∧ (d.offRuns.Pairwise fun a b => a.hi < b.lo) ∧
    (∀ r, r ∈ d.onRuns ∨ r ∈ d.offRuns → r.lo < r.hi ∧ r.hi ≤ 4096) ∧
    (d.code = 0 ∨ d.onTime = 0 ∨ d.off = .fromStart → d.onRuns = [] ∧ d.offRuns = [{ lo := 0, hi := 4096 }]) ∧
    (d.onTime = 4096 → d.code ≠ 0 → d.off = .clear → d.onRuns = [{ lo := 0, hi := 4096 }] ∧ d.offRuns = []) ∧
    (d.off = .clear ∨ d.off = .fromStart → d.cutCount = none) ∧
    (∀ n, d.off = .cutAt n → d.cutCount = some n ∧ ∀ r ∈ d.onRuns, r.hi ≤ n)) ∧
  (∀ (s : State) (c : Fin 16) (i : Nat), OnTimesSound s → i < 4096 →
    ((s.conducts c i = true ↔ s.drive.running = true ∧ ConductsAt s.drive.ch[c] i) ∧
      (s.conducts c i = true → s.sinkCurrent c i = imax Config.refOhms * s.drive.ch[c].code.toNat / 255) ∧
      (s.conducts c i = false → s.sinkCurrent c i = 0) ∧ (Config.refOhms = none → s.sinkCurrent c i = 0))) ∧
  imax none = 0 ∧ (∀ r, r < 20000 → imax (some r) = 60) ∧ ∀ r : Nat, 20000 ≤ r → imax (some r) * r = 1200000

/-- The sample of a record at a cycle completion: NO-SAMPLE when its detector is disabled, when an off-forced mark was set in
the cycle, for OPEN and SHORT-HIGH while the supply is LOW, and without a run of 64 counts; else FAIL exactly when its
failing condition is present at a count after the first 32 of some run of at least 64 counts. The runs of a BRIDGE record
are the maximal runs of counts at which exactly one of its two channels conducts, the same one throughout (R75, R151 to
R157). Choices of the model: a voltage on the edge counts as within (log entry 11), and with REF open OPEN fails whatever
voltage is given (log entry 16). -/
def Obligations.SampleJudgement : Prop :=
  (∀ (s : State) (obs : CycleObs) (i : Fin 63), ∃ (masked : Prop) (runs : List CountRun),
    (masked ↔
      polEnable s.tables.policy.active (i.val / 16) = false ∨
      driveMask s.tables.drive.active (i.val % 16) (i.val / 16) = false ∨
      (∃ c : Fin 16, s.drive.ch[c].offFrom.isSome = true) ∨
      (s.supply.state = .low ∧ i.val < 32)) ∧
    runs = (if i.val < 32 then s.drive.ch[recChannel i].onRuns
      else if i.val < 48 then s.drive.ch[recChannel i].offRuns
      else bridgeRuns s.drive (i.val % 16)) ∧
    (s.sampleOf obs i = .noSample ↔ masked ∨ ∀ r ∈ runs, r.hi < r.lo + 64) ∧
    (s.sampleOf obs i = .fail ↔ ¬ masked ∧ ∃ r ∈ runs, r.lo + 64 ≤ r.hi ∧ ∃ n w, r.lo + 32 ≤ n ∧ n < r.hi ∧
      windowAt obs.windows 0 n = some w ∧ FailingCondition s.tables.policy.active i w)) ∧
  (∀ (d : Drive) (n : Fin 15), (∀ c : Fin 16, d.ch[c].onTime ≤ 4096) → ∃ a b : DriveCh,
    d.ch[n.val]? = some a ∧ d.ch[n.val + 1]? = some b ∧
    (∀ r ∈ bridgeRuns d n, r.lo < r.hi ∧ r.hi ≤ 4096 ∧ ∃ x y : DriveCh, ((x = a ∧ y = b) ∨ (x = b ∧ y = a)) ∧
      (∀ i, Holds r i → ConductsAlone x y i) ∧
      ∀ i, i < 4096 → i + 1 = r.lo ∨ i = r.hi → ¬ ConductsAlone x y i) ∧
    ∀ i, i < 4096 → ConductsAlone a b i ∨ ConductsAlone b a i → ∃ r ∈ bridgeRuns d n, Holds r i)

/-- At a cycle completion each sample moves its record by the debounce table, with the confirm count C and the clear count
K of the active POLICY section (R158). -/
def Obligations.DebounceTable : Prop :=
  ∀ (s : State) (obs : CycleObs) (i : Fin 63), Up s → s.drive.running = true → ∃ (t : State) (C K run : Nat),
    exec (.cycleCompletion obs) s = .next t ∧ C = polConfirm s.tables.policy.active ∧
    K = polClear s.tables.policy.active ∧ run = s.diag.records[i].run ∧
    (t.diag.records[i].state, t.diag.records[i].run) =
      match s.diag.records[i].state, s.sampleOf obs i with
      | .clear, .pass => (.clear, 0)
      | .clear, .fail => if C = 1 then (.confirmed, 0) else (.suspect, 1)
      | .suspect, .pass => (.clear, 0)
      | .suspect, .fail => if C ≤ run + 1 then (.confirmed, 0) else (.suspect, run + 1)
      | .confirmed, .pass => if K = 1 then (.clear, 0) else (.recovering, 1)
      | .confirmed, .fail => (.confirmed, 0)
      | .recovering, .pass => if K ≤ run + 1 then (.clear, 0) else (.recovering, run + 1)
      | .recovering, .fail => (.confirmed, 0)
      | x, .noSample => (x, run)

/-- A cycle completion moves all 63 records by their samples with C and K of the active POLICY, sets the seen mark of each
record confirmed, gives every empty latch the lowest record confirmed that affects its channel, keeps the latches that
are held, joins the confirmed and the recovered records of channels not QUIET to the changed set, and evaluates the supply
against the state in force, which changes at the second disagreement in a row and sets the SUPPLY flag. A record that joins
and a change of supply state let the notices join, with the records and the supply state as they now are; without either
nothing joins (R136, R137, R139, R151, R159 to R165, R182, R183). That samples and supply evaluation are one command, after
which the notices join, is the model's choice (log entry 21). -/
def Obligations.CycleCompletion : Prop :=
  ∀ (s : State) (obs : CycleObs), Up s → s.drive.running = true →
    ∃ (t raised : State) (points : SupplyState) (joins : Fin 63 → Prop), exec (.cycleCompletion obs) s = .next t ∧
    (∀ i : Fin 63, ∃ r : FaultRec,
      r = debounce (polConfirm s.tables.policy.active) (polClear s.tables.policy.active) s.diag.records[i]
        (s.sampleOf obs i) ∧
      t.diag.records[i].state = r.state ∧ t.diag.records[i].run = r.run ∧
      (t.diag.records[i].seen = true ↔ s.diag.records[i].seen = true ∨ Confirmed s.diag.records[i] r) ∧
      ((s.diag.changed[i] = true ∨ (drivePolicy s.tables.drive.active (i.val % 16) ≠ .quiet ∧
          (Confirmed s.diag.records[i] r ∨ Recovered s.diag.records[i] r))) →
        t.diag.changed[i] = true ∨ ListsRecord t.ret.queue i) ∧
      (t.diag.changed[i] = true → s.diag.changed[i] = true ∨ (drivePolicy s.tables.drive.active (i.val % 16) ≠ .quiet ∧
          (Confirmed s.diag.records[i] r ∨ Recovered s.diag.records[i] r)))) ∧
    (∀ c : Fin 16, match s.diag.latches[c] with
      | some r => t.diag.latches[c] = some r
      | none => IsLowest t.diag.latches[c] fun i =>
          Confirmed s.diag.records[i] t.diag.records[i] ∧ Touches s.tables.drive.active i c) ∧
    (points = if obs.vlsEnd < [3000, 4500, 6000, 7500].getD (polSupply s.tables.policy.active) 0 then .low else .ok) ∧
    t.supply = (if points = s.supply.state then { s.supply with agree := 0 }
      else if s.supply.agree = 0 then { s.supply with agree := 1 }
      else { state := points, agree := 0, lowMark := s.supply.lowMark || points = .low }) ∧
    t.drive = { s.drive with running := false } ∧ t.link = s.link ∧ t.tables = s.tables ∧ t.parcels = s.parcels ∧
    t.levels = s.levels ∧ t.thermal = s.thermal ∧ t.watch = s.watch ∧ t.snap = s.snap ∧ t.pins = s.pins ∧
    t.ret.pass = s.ret.pass ∧ t.ret.ro = s.ret.ro ∧ t.ret.passCount = s.ret.passCount ∧
    (∀ i : Fin 63, joins i ↔ drivePolicy s.tables.drive.active (i.val % 16) ≠ .quiet ∧
      (Confirmed s.diag.records[i] t.diag.records[i] ∨ Recovered s.diag.records[i] t.diag.records[i])) ∧
    raised.diag.records = t.diag.records ∧ raised.diag.latches = t.diag.latches ∧
    (∀ i : Fin 63, raised.diag.changed[i] = true ↔ s.diag.changed[i] = true ∨ joins i) ∧
    raised = { t with
      diag := raised.diag
      ret := { s.ret with supplyFlag := s.ret.supplyFlag || decide (t.supply.state ≠ s.supply.state) } } ∧
    (t.supply.state ≠ s.supply.state ∨ (∃ i, joins i) → t = noticesJoined raised) ∧
    (t.supply.state = s.supply.state → (∀ i, ¬ joins i) → t = raised ∧ t.ret = s.ret ∧ t.diag.changed = s.diag.changed)

/-! ### Monitors and timers -/

/-- A thermal sample reads the nearest degree within −40 to 200 (which of two equally near ones is free, log entry 7), moves
the band up to the highest band entered or down to the highest band not left, raises the highest-band mark, and cuts
every output at an entry into CRITICAL; the cycle in progress goes on at its rate, and a sample that changes no band changes
nothing else (R77, R80, R81, R174, R175, R177). That the marks are set also while no cycle runs, and that a mark already set
stays as it is, is the model's choice (log entry 20). -/
def Obligations.ThermalSampleMovesBand : Prop :=
  ∀ (s : State) (milliC : Int) (count : Nat), Up s → ∃ (t : State) (deg : Int) (pol : Vector Word 25),
    exec (.thermalSample milliC count) s = .next t ∧ pol = s.tables.policy.active ∧
    -40 ≤ deg ∧ deg ≤ 200 ∧ (milliC ≤ -40000 → deg = -40) ∧ (200000 ≤ milliC → deg = 200) ∧
    (-40000 ≤ milliC → milliC ≤ 200000 → 1000 * deg ≤ milliC + 500 ∧ milliC ≤ 1000 * deg + 500) ∧
    t.thermal.reading = some deg ∧
    (∀ b : Band, b.entered pol deg = true → b.value ≤ t.thermal.band.value) ∧
    (s.thermal.band.value < t.thermal.band.value → t.thermal.band.entered pol deg = true) ∧
    (t.thermal.band.value ≤ s.thermal.band.value → t.thermal.band.kept pol deg = true ∧
      ∀ b : Band, b.value ≤ s.thermal.band.value → b.kept pol deg = true → b.value ≤ t.thermal.band.value) ∧
    t.thermal.highest.value = max s.thermal.highest.value t.thermal.band.value ∧
    (t.thermal.band = s.thermal.band → t = { s with thermal := t.thermal }) ∧
    (∀ c : Fin 16, t.drive.ch[c] = { s.drive.ch[c] with
      off := if t.thermal.band = .critical ∧ s.thermal.band ≠ .critical ∧ s.drive.ch[c].off = .clear then .cutAt count
        else s.drive.ch[c].off }) ∧
    t.drive.running = s.drive.running ∧ t.drive.rate = s.drive.rate ∧
    t.link = s.link ∧ t.tables = s.tables ∧ t.parcels = s.parcels ∧ t.levels = s.levels ∧ t.supply = s.supply ∧
    t.watch = s.watch ∧ t.snap = s.snap ∧ t.diag.records = s.diag.records ∧ t.diag.latches = s.diag.latches

/-- A band change sets the THERMAL flag, and a transmission start that takes a local message frees its place; at both, every
notice that can join does so at once with the body of that moment, in the order FAULT, THERMAL, SUPPLY, LINK, as many as
keep the queue at 6 messages, the first with the LOST mark, and each consumes its pending state; what cannot join stays
pending (R132, R133, R135 to R140, R178, R212). So: with room a THERMAL notice joins alone with band and highest band; a node
that is unaddressed, has no room or has one of the kind queued keeps the flag set; of several kinds that compete for one
place the first in the order joins; and a FAULT notice lists the sixteen lowest records of the changed set with standing and
seen, which leave that set. -/
def Obligations.NoticesJoinAtOnceAndInOrder : Prop :=
  (∀ (s t : State) (milliC : Int) (count : Nat), Up s → exec (.thermalSample milliC count) s = .next t →
    t.thermal.band ≠ s.thermal.band →
    (t = noticesJoined { s with thermal := t.thermal, drive := t.drive, ret := { s.ret with thermalFlag := true } }) ∧
    (RoomForNotice s .thermal → OnlyPending s [.thermal] → t.ret = { s.ret with
      queue := s.ret.queue ++
        [noticeMsg s .thermal [BitVec.ofNat 16 (t.thermal.band.value + 16 * t.thermal.highest.value)]]
      lost := false
      thermalFlag := false }) ∧
    (s.link.address = 255 ∨ 6 ≤ s.ret.queue.length ∨
        ((∃ m ∈ s.ret.queue, m.noticeKind = some .thermal) ∧ OnlyPending s [.thermal]) →
      t.ret = { s.ret with thermalFlag := true })) ∧
  (∀ (s : State) (m : Msg) (rest : List Msg), Up s → s.ret.ro = none → s.link.flowIn = .go →
    s.ret.pass = [] ∨ s.ret.passCount = 3 → s.ret.queue = m :: rest → exec .transmissionStart s = .next
      (noticesJoined { s with ret := { s.ret with
        queue := rest, ro := some (m.words ++ [crcOf m.words]), passCount := 0 } })) ∧
  (∀ (s : State) (m : Msg) (rest : List Msg) (before : List NoticeKind) (k : NoticeKind) (after : List NoticeKind),
    Up s → s.ret.ro = none → s.link.flowIn = .go → s.ret.pass = [] → s.ret.queue = m :: rest → rest.length = 5 →
    s.link.address ≠ 255 → (∀ x ∈ rest, x.noticeKind = none) →
    [NoticeKind.fault, .thermal, .supply, .link] = before ++ k :: after →
    (∀ x ∈ before, noticePending s x = false) → noticePending s k = true → ∃ t : State,
      exec .transmissionStart s = .next t ∧ t.ret.queue = rest ++ [noticeMsg s k (noticeSays s k)] ∧
      t.ret.lost = false ∧ ∀ x ∈ after, noticePending t x = noticePending s x) ∧
  (∀ (s : State) (k : NoticeKind) (m : Msg) (rest : List Msg), Up s → s.ret.ro = none → s.link.flowIn = .go →
    s.ret.pass = [] → s.ret.queue = m :: rest → rest.length < 6 → s.link.address ≠ 255 →
    (∀ x ∈ rest, x.noticeKind ≠ some k) → OnlyPending s [k] → noticePending s k = true →
    ∃ t : State, exec .transmissionStart s = .next t ∧
      t.ret.queue = rest ++ [noticeMsg s k (noticeSays s k)] ∧ t.ret.lost = false ∧
      match k with
      | .fault => ∀ i : Fin 63, t.diag.changed[i] = true ↔ s.diag.changed[i] = true ∧ i ∉ listedRecords s
      | .thermal => t.ret.thermalFlag = false
      | .supply => t.ret.supplyFlag = false
      | .link => t.ret.linkFlag = false)

/-- Watch expiry goes to HOLDOVER with the holdover timer at H × 100 ms, without a timer at H = 255, and at H = 0 to FALLBACK
with the LINK flag set and LIVE handed as the state left; holdover expiry goes to FALLBACK and hands HOLDOVER. The LINK
notice joins at once if it can, and else the flag stays set (R137, R140, R191 to R193). -/
def Obligations.TimerExpiries : Prop :=
  (∀ s : State, Up s → s.watch.state = .live → s.watch.watchTimer.isSome = true →
    polH s.tables.policy.active ≠ 0 → exec .watchExpiry s = .next { s with watch := {
      state := .holdover, watchTimer := none
      holdTimer := if polH s.tables.policy.active = 255 then none else some (polH s.tables.policy.active * 100) } }) ∧
  (∀ (s : State) (c : Instr) (left : LinkState), Up s →
    (c = .watchExpiry ∧ left = .live ∧ s.watch.watchTimer.isSome = true ∧ polH s.tables.policy.active = 0) ∨
      (c = .holdoverExpiry ∧ left = .holdover ∧ s.watch.holdTimer.isSome = true) → s.watch.state = left →
    ∃ t, exec c s = .next t ∧ t.watch = { state := .fallback, watchTimer := none, holdTimer := none } ∧
      (RoomForNotice s .link → OnlyPending s [.link] → t.ret = { s.ret with
        queue := s.ret.queue ++ [noticeMsg s .link [BitVec.ofNat 16 (3 + 16 * left.value)]]
        lost := false
        linkFlag := false
        prevLink := left }) ∧
      (s.link.address = 255 ∨ 6 ≤ s.ret.queue.length → t.ret = { s.ret with linkFlag := true, prevLink := left }) ∧
      t = noticesJoined { s with watch := t.watch, ret := { s.ret with linkFlag := true, prevLink := left } } ∧
      t.link = s.link ∧ t.tables = s.tables ∧ t.parcels = s.parcels ∧ t.levels = s.levels ∧ t.drive = s.drive ∧
      t.thermal = s.thermal ∧ t.supply = s.supply ∧ t.snap = s.snap)

/-! ### The return lane -/

/-- No transmission starts while RO is busy, the recorded flow symbol is FLOW-HOLD or both stores are empty. Else the head of
the pass buffer is sent as it came, unless it is empty or the counter stands at 3 with a local message waiting; then the
head of the local queue is sent with its check word. The message leaves its store, the counter follows, a pass buffer that
falls to one message sends FLOW-GO between sweeps, and a completion leaves RO idle (R23, R45, R143 to R146). Choices of the
model: the start is a step of its own (log entry 17), and FLOW-GO is named when it joins the DO queue (log entry 12). -/
def Obligations.TransmissionStartAndCompletion : Prop :=
  (∀ s : State, Up s → s.ret.ro.isSome = true ∨ s.link.flowIn = .hold ∨ (s.ret.pass = [] ∧ s.ret.queue = []) →
    exec .transmissionStart s = .next s) ∧
  (∀ (s : State) (ws : List Word) (rest : List (List Word)), Up s → s.ret.ro = none → s.link.flowIn = .go →
    s.ret.pass = ws :: rest → s.ret.queue = [] ∨ s.ret.passCount ≠ 3 →
    exec .transmissionStart s = .next
      { s with
        ret := { s.ret with
          pass := rest, ro := some ws, passCount := if s.ret.passCount < 3 then s.ret.passCount + 1 else 3 }
        link := if rest.length = 1 ∧ (s.link.rx = .waitStart ∨ s.link.rx = .skip) then queued s.link [.flow .go]
          else s.link }) ∧
  (∀ (s : State) (m : Msg) (rest : List Msg), Up s → s.ret.ro = none → s.link.flowIn = .go → s.ret.queue = m :: rest →
    s.ret.pass = [] ∨ s.ret.passCount = 3 → OnlyPending s [] →
    exec .transmissionStart s = .next
      { s with ret := { s.ret with queue := rest, ro := some (m.words ++ [crcOf m.words]), passCount := 0 } }) ∧
  (∀ s : State, Up s → exec .transmissionCompletion s = .next { s with ret := { s.ret with ro := none } })

/-- START on RI decides whether the message has a place, and discards one still arriving; a message without a place or a
discarded one sets the LOST mark. At END the message joins the pass buffer as received exactly when it has three header
words, as many body words as header word 2 says, at most 64, and a check word that matches, and else sets the LOST mark;
FLOW-HOLD follows between sweeps when occupancy reaches 2. Every message this node sends with at most 64 body words is
accepted by such a receiver (R23, R45, R131, R141 to R143, R146, R214). Choices of the model: the words come with END as one
command (log entry 18), and FLOW-HOLD is named when it joins the DO queue (log entry 12). -/
def Obligations.ReturnMessagesReceived : Prop :=
  (∀ s : State, Up s → exec .riMessageStart s = .next { s with ret := { s.ret with
    ri := if s.ret.pass.length < 3 then .arriving else .overrun
    lost := s.ret.lost || decide (s.ret.ri = .arriving) || decide (3 ≤ s.ret.pass.length) } }) ∧
  (∀ (s : State) (ws : List Word), Up s → s.ret.ri = .arriving →
    ∃ accepted : Prop, (accepted ↔ ∃ h0 h1 n body, ws = [h0, h1, n] ++ body ++ [crcOf ([h0, h1, n] ++ body)] ∧
        n.toNat ≤ 64 ∧ body.length = n.toNat) ∧
      (accepted → exec (.riMessageReceived ws) s = .next
        { s with
          ret := { s.ret with ri := .idle, pass := s.ret.pass ++ [ws] }
          link := if s.ret.pass.length = 1 ∧ (s.link.rx = .waitStart ∨ s.link.rx = .skip) then
              queued s.link [.flow .hold]
            else s.link }) ∧
      (¬ accepted → exec (.riMessageReceived ws) s = .next { s with ret := { s.ret with ri := .idle, lost := true } })) ∧
  (∀ (s : State) (ws : List Word), Up s → s.ret.ri ≠ .arriving →
    exec (.riMessageReceived ws) s = .next { s with ret := { s.ret with ri := .idle } }) ∧
  ∀ m : Msg, (match m.content with | .reply _ _ _ body => body.length | .notice _ body => body.length) ≤ 64 →
    messageAccepted (m.words ++ [crcOf m.words]) = true

/-! ### What holds at every step -/

/-- At every step: the local reply queue holds at most 8 messages, at most 6 of them notices and at most one of a kind; the
pass buffer at most 3; the DO queue at most 16 symbols; the counter is at most 3 (R23, R133, R141, R142, R145). -/
def Obligations.QueuesStayInBounds : Prop :=
  ∀ s t : State, step s = .next t → ReplyQueueSound s → PassBufferSound s → DoQueueSound s →
    ReplyQueueSound t ∧ PassBufferSound t ∧ DoQueueSound t

/-- At every step: no notice that could join the local reply queue waits outside it (R137). -/
def Obligations.NoNoticeEverWaits : Prop :=
  ∀ s t : State, step s = .next t → NoNoticeWaits s → NoNoticeWaits t

/-- At every step: the active copy of every section is valid, and so is the shadow copy of a pending one; and under them no
on-time taken for a cycle passes 4096 (R71, R78, R90, R101). -/
def Obligations.ActiveCopiesStayValid : Prop :=
  ∀ s t : State, step s = .next t → TablesSound s → TablesSound t ∧ (OnTimesSound s → OnTimesSound t)

/-- At every step: a latch names a record whose seen mark is set, a standing record has its seen mark set, and the run
counts stay within 0 to 15, 0 in CLEAR and CONFIRMED (R150, R159, R163). -/
def Obligations.DiagnosticsStaySound : Prop :=
  ∀ s t : State, step s = .next t → LatchesSound s → RunsSound s → LatchesSound t ∧ RunsSound t

/-- At every step: the parcel buffer holds at most 8 parcels and 256 body words, executable ones first, each whole but for
the one that is arriving; the duplicate history at most 4 entries with distinct tags, none 0 (R111, R112, R117, R124). -/
def Obligations.ParcelEngineStaysSound : Prop :=
  ∀ s t : State, step s = .next t → ParcelBufferSound s → ParcelsWhole s → HistorySound s →
    ParcelBufferSound t ∧ ParcelsWhole t ∧ HistorySound t

/-- At every step: the highest-band mark is never below the band, the supply-low mark is set while the supply is LOW, each
timer runs only in its state, every output is cut while a cycle runs in CRITICAL, and the receiver's place agrees with the
counts of its sweep (R24, R80, R177, R183, R187). -/
def Obligations.MonitorsAndReceiverStaySound : Prop :=
  ∀ s t : State, step s = .next t → MonitorsSound s → TimersSound s → CriticalCut s → ReceiverSound s →
    MonitorsSound t ∧ TimersSound t ∧ CriticalCut t ∧ ReceiverSound t

/-- The state after reset is sound in every sense that the step statements keep. -/
def Obligations.ResetStateIsSound : Prop :=
  ReplyQueueSound State.reset ∧ PassBufferSound State.reset ∧ DoQueueSound State.reset ∧ NoNoticeWaits State.reset ∧
    TablesSound State.reset ∧ OnTimesSound State.reset ∧ LatchesSound State.reset ∧ RunsSound State.reset ∧ ParcelBufferSound State.reset ∧
    ParcelsWhole State.reset ∧ HistorySound State.reset ∧ MonitorsSound State.reset ∧ TimersSound State.reset ∧
    CriticalCut State.reset ∧ ReceiverSound State.reset

/-- Which blocks each command can change at all: what no clause lets a command change is as before (00_scope.md, Block
diagram; 95_what_each_step_holds.md). The model's own counter of free choices moves at END alone (log entry 6). -/
def Obligations.BlocksChangeOnlyByTheirCommands : Prop :=
  ∀ (c : Instr) (s t : State), exec c s = .next t → ¬ beginsReset c s →
    (t.link = s.link ∨ c ∈ [.diStart, .diEnd, .flowSymbolRepeat, .doSymbolTime, .restart, .transmissionStart, .resetEnd] ∨
      (diWord c).isSome = true ∨ (∃ f, c = .diFlowSymbol f) ∨ ∃ ws, c = .riMessageReceived ws) ∧
    (t.tables = s.tables ∨ c ∈ [.write, .commit, .discard, .freeze, .thaw, .restart] ∨ (diWord c).isSome = true) ∧
    (t.parcels = s.parcels ∨ (∃ k, c = parcelCommand k) ∨ c ∈ [.unknownKindParcel, .diStart, .diEnd, .resetEnd] ∨
      (diWord c).isSome = true) ∧
    (t.levels = s.levels ∨ c ∈ [.diStart, .diEnd, .restart] ∨ (diWord c).isSome = true) ∧
    (t.drive = s.drive ∨ c ∈ [.cycleStart, .resetEnd] ∨ (∃ o, c = .cycleCompletion o) ∨ ∃ m n, c = .thermalSample m n) ∧
    (t.diag.records = s.diag.records ∨ c ∈ [.clearFaults, .restart] ∨ ∃ o, c = .cycleCompletion o) ∧
    (t.diag.latches = s.diag.latches ∨ c = .clearFaults ∨ ∃ o, c = .cycleCompletion o) ∧
    (t.diag.changed = s.diag.changed ∧ t.ret.thermalFlag = s.ret.thermalFlag ∧ t.ret.supplyFlag = s.ret.supplyFlag ∧
        t.ret.linkFlag = s.ret.linkFlag ∨ LetsNoticesJoin c) ∧
    (t.ret.queue = s.ret.queue ∨ LetsNoticesJoin c ∨ (∃ k, c = parcelCommand k) ∨ c = .unknownKindParcel) ∧
    (t.ret.lost = s.ret.lost ∨ LetsNoticesJoin c ∨ (∃ k, c = parcelCommand k) ∨ c ∈ [.unknownKindParcel, .riMessageStart] ∨
      ∃ ws, c = .riMessageReceived ws) ∧
    (t.ret.prevLink = s.ret.prevLink ∨ c ∈ [.diEnd, .watchExpiry, .holdoverExpiry]) ∧
    (t.ret.pass = s.ret.pass ∨ c = .transmissionStart ∨ ∃ ws, c = .riMessageReceived ws) ∧
    (t.ret.ri = s.ret.ri ∨ c = .riMessageStart ∨ ∃ ws, c = .riMessageReceived ws) ∧
    (t.ret.ro = s.ret.ro ∨ c ∈ [.transmissionStart, .transmissionCompletion]) ∧
    (t.ret.passCount = s.ret.passCount ∨ c = .transmissionStart) ∧
    (t.thermal = s.thermal ∨ c = .clearFaults ∨ ∃ m n, c = .thermalSample m n) ∧
    (t.supply = s.supply ∨ c = .clearFaults ∨ ∃ o, c = .cycleCompletion o) ∧
    (t.watch = s.watch ∨ c ∈ [.diEnd, .watchExpiry, .holdoverExpiry, .restart]) ∧
    (t.snap = s.snap ∨ c ∈ [.capture, .restart]) ∧
    (t.pins = s.pins ∨ c = .resetEnd ∨ (∃ l, c = .resetRelease l) ∨ ∃ e, c = .vccFltDriveThreshold e) ∧
    (t.freeUses = s.freeUses ∨ c = .diEnd) ∧ t.pending = s.pending

/-! ### The check word -/

/-- A message whose check word follows it brings the register to 0, and damage confined to one word always changes the
check word, whatever stands before and after it (drawn from the feeding rule of R214); a check over no words is 0xFFFF. -/
def Obligations.CheckWordFindsOneDamagedWord : Prop :=
  crcOf [] = 0xFFFF ∧ (∀ ws : List Word, crcOf (ws ++ [crcOf ws]) = 0) ∧
    ∀ (a b : List Word) (w v : Word), crcOf (a ++ w :: b) = crcOf (a ++ v :: b) → w = v
end

