-- ==== Sys2Proof/Laws/Conduction.lean ====
section
/-! SUPPORT. Runs of counts: which counts the runs of a cycle hold (R79 to R81, R151, R155). -/

namespace Sys2Proof.Machine

open Sys2Proof Sys2Proof.Safety

/-- No count is held off exactly when the mark is clear (R80). -/
@[simp] theorem offFrom_eq_none (d : DriveCh) : d.offFrom = none ↔ d.off = .clear := by
  cases h : d.off <;> simp [DriveCh.offFrom, h]

/-- A cut is handed exactly when an entry into CRITICAL made it (R81). -/
@[simp] theorem cutCount_eq_some (d : DriveCh) (n : Nat) : d.cutCount = some n ↔ d.off = .cutAt n := by
  cases h : d.off <;> simp [DriveCh.cutCount, h]

/-- Two runs meet exactly in the counts they share. -/
theorem meet_holds (a b : CountRun) (i : Nat) : (∃ r, a.meet b = some r ∧ Holds r i) ↔ Holds a i ∧ Holds b i := by
  unfold CountRun.meet Holds
  split
  · simp only [Option.some.injEq, exists_eq_left']
    omega
  · simp only [reduceCtorEq, false_and, exists_false, false_iff]
    omega

/-- The runs in both of two lists hold the counts that both lists hold. -/
theorem meetRuns_holds (xs ys : List CountRun) (i : Nat) :
    (∃ r ∈ meetRuns xs ys, Holds r i) ↔ (∃ a ∈ xs, Holds a i) ∧ ∃ b ∈ ys, Holds b i := by
  simp only [meetRuns, List.mem_flatMap, List.mem_filterMap]
  constructor
  · rintro ⟨r, ⟨a, ha, b, hb, h⟩, hr⟩
    have := (meet_holds a b i).mp ⟨r, h, hr⟩
    exact ⟨⟨a, ha, this.1⟩, b, hb, this.2⟩
  · rintro ⟨⟨a, ha, h1⟩, b, hb, h2⟩
    obtain ⟨r, h, hr⟩ := (meet_holds a b i).mpr ⟨h1, h2⟩
    exact ⟨r, ⟨a, ha, b, hb, h⟩, hr⟩

/-- The on-window holds the counts of the window (R79). -/
theorem windowRuns_holds (d : DriveCh) (h : d.onTime ≤ 4096) (i : Nat) (hi : i < 4096) :
    (∃ r ∈ d.windowRuns, Holds r i) ↔
      (1024 * d.phase.val ≤ i ∧ i < 1024 * d.phase.val + d.onTime) ∨ i + 4096 < 1024 * d.phase.val + d.onTime := by
  have hp := d.phase.isLt
  simp only [DriveCh.windowRuns, cycleCounts, Holds]
  by_cases h0 : d.onTime = 0
  · simp [h0]; omega
  · by_cases h1 : 4096 ≤ d.onTime
    · simp [h0, h1]; omega
    · by_cases h2 : 1024 * d.phase.val + d.onTime ≤ 4096
      · simp [h0, h1, h2]; omega
      · simp [h0, h1, h2]; omega

/-- The conducting runs hold exactly the counts at which the output conducts (R79 to R81). -/
theorem onRuns_holds (d : DriveCh) (h : d.onTime ≤ 4096) (i : Nat) (hi : i < 4096) :
    (∃ r ∈ d.onRuns, Holds r i) ↔ ConductsAt d i := by
  unfold DriveCh.onRuns ConductsAt
  by_cases hc : d.code = 0
  · simp [hc]
  · rw [if_neg hc, meetRuns_holds, windowRuns_holds d h i hi]
    have ho : (∃ b ∈ d.openRuns, Holds b i) ↔ ∀ n, d.offFrom = some n → i < n := by
      unfold DriveCh.openRuns Holds
      cases d.offFrom <;> simp [cycleCounts, hi]
    rw [ho]
    exact ⟨fun x => ⟨hc, x⟩, fun x => x.2⟩

/-- Ascending runs with a gap between neighbours, none empty, from `from_` up to 4096. -/
def RunsFrom (from_ : Nat) (xs : List CountRun) : Prop :=
  match xs with
  | [] => True
  | a :: rest => from_ ≤ a.lo ∧ a.lo < a.hi ∧ a.hi ≤ 4096 ∧ RunsFrom (a.hi + 1) rest

theorem RunsFrom.mono {xs : List CountRun} {m n : Nat} (h : RunsFrom n xs) (hm : m ≤ n) : RunsFrom m xs := by
  cases xs with
  | nil => trivial
  | cons a rest => exact ⟨by have := h.1; omega, h.2⟩

theorem RunsFrom.lo {xs : List CountRun} {m : Nat} (h : RunsFrom m xs) : ∀ r ∈ xs, m ≤ r.lo ∧ r.lo < r.hi ∧ r.hi ≤ 4096 := by
  induction xs generalizing m with
  | nil => simp
  | cons a rest ih =>
    intro r hr
    obtain ⟨h1, h2, h3, h4⟩ := h
    rcases List.mem_cons.mp hr with rfl | hr
    · exact ⟨h1, h2, h3⟩
    · have := ih h4 r hr
      omega

theorem RunsFrom.pairwise {xs : List CountRun} {m : Nat} (h : RunsFrom m xs) : xs.Pairwise fun a b => a.hi < b.lo := by
  induction xs generalizing m with
  | nil => simp
  | cons a rest ih =>
    obtain ⟨h1, h2, h3, h4⟩ := h
    exact List.pairwise_cons.mpr ⟨fun b hb => by have := h4.lo b hb; omega, ih h4⟩

/-- Cutting a list of runs is cutting its head and its tail. -/
theorem meetRuns_cons (a b : CountRun) (rest : List CountRun) :
    meetRuns (a :: rest) [b] = (a.meet b).toList ++ meetRuns rest [b] := by
  simp only [meetRuns, List.flatMap_cons, List.filterMap_cons, List.filterMap_nil]
  cases a.meet b <;> rfl

theorem gapsFrom_cons (m : Nat) (a : CountRun) (rest : List CountRun) : gapsFrom m (a :: rest) =
    if m < a.lo then { lo := m, hi := a.lo } :: gapsFrom a.hi rest else gapsFrom a.hi rest := rfl

/-- Cutting runs off at a count keeps them ascending. -/
theorem RunsFrom.cut {xs : List CountRun} {m : Nat} (h : RunsFrom m xs) (n : Nat) :
    RunsFrom m (meetRuns xs [{ lo := 0, hi := n }]) := by
  induction xs generalizing m with
  | nil => trivial
  | cons a rest ih =>
    obtain ⟨h1, h2, h3, h4⟩ := h
    have hr := ih h4
    rw [meetRuns_cons]
    unfold CountRun.meet
    split
    · rename_i hc
      simp only at hc
      exact ⟨by simp; omega, by simp; omega, by simp; omega, hr.mono (by simp)⟩
    · exact hr.mono (by omega)

/-- The on-window as runs ascends with a gap between its two parts (R79). -/
theorem windowRuns_runsFrom (d : DriveCh) : RunsFrom 0 d.windowRuns ∧ d.windowRuns.length ≤ 2 := by
  have hp := d.phase.isLt
  simp only [DriveCh.windowRuns, cycleCounts]
  by_cases h0 : d.onTime = 0
  · simp [h0, RunsFrom]
  · by_cases h1 : 4096 ≤ d.onTime
    · simp [h0, h1, RunsFrom]
    · by_cases h2 : 1024 * d.phase.val + d.onTime ≤ 4096
      · simp [h0, h1, h2, RunsFrom]; omega
      · simp [h0, h1, h2, RunsFrom]; omega

/-- The conducting runs ascend with a gap between neighbours. -/
theorem onRuns_runsFrom (d : DriveCh) : RunsFrom 0 d.onRuns := by
  unfold DriveCh.onRuns
  split
  · trivial
  · unfold DriveCh.openRuns
    cases d.offFrom <;> exact (windowRuns_runsFrom d).1.cut _

/-- There are at most two conducting runs. -/
theorem onRuns_length (d : DriveCh) : d.onRuns.length ≤ 2 := by
  have hw := (windowRuns_runsFrom d).2
  have key : ∀ (xs : List CountRun) n, (meetRuns xs [{ lo := 0, hi := n }]).length ≤ xs.length := by
    intro xs n
    induction xs with
    | nil => simp [meetRuns]
    | cons a rest ih =>
      rw [meetRuns_cons, List.length_append, List.length_cons]
      have : (a.meet { lo := 0, hi := n }).toList.length ≤ 1 := by cases a.meet { lo := 0, hi := n } <;> simp
      omega
  unfold DriveCh.onRuns
  split
  · simp
  · unfold DriveCh.openRuns
    cases d.offFrom <;> exact (key _ _).trans hw

/-- The gaps hold exactly the counts from `from_` on that no run holds. -/
theorem gapsFrom_holds {xs : List CountRun} {m : Nat} (h : RunsFrom m xs) (i : Nat) (hi : i < 4096) :
    (∃ r ∈ gapsFrom m xs, Holds r i) ↔ m ≤ i ∧ ¬ ∃ r ∈ xs, Holds r i := by
  induction xs generalizing m with
  | nil =>
    unfold gapsFrom cycleCounts Holds
    split
    · simp; omega
    · simp; omega
  | cons a rest ih =>
    obtain ⟨h1, h2, h3, h4⟩ := h
    have hr := ih (h4.mono (Nat.le_succ _))
    have hlo := h4.lo
    have e : (∃ r ∈ gapsFrom m (a :: rest), Holds r i) ↔
        (m ≤ i ∧ i < a.lo) ∨ ∃ r ∈ gapsFrom a.hi rest, Holds r i := by
      rw [gapsFrom_cons]
      split
      · simp [Holds]
      · constructor
        · exact .inr
        · rintro (hx | hx)
          · omega
          · exact hx
    rw [e, hr]
    constructor
    · rintro (hx | ⟨hx, hn⟩)
      · refine ⟨hx.1, ?_⟩
        rintro ⟨r, hm, hh⟩
        unfold Holds at hh
        rcases List.mem_cons.mp hm with rfl | hm
        · omega
        · have := hlo r hm; omega
      · refine ⟨by omega, ?_⟩
        rintro ⟨r, hm, hh⟩
        rcases List.mem_cons.mp hm with rfl | hm
        · unfold Holds at hh; omega
        · exact hn ⟨r, hm, hh⟩
    · rintro ⟨hm, hn⟩
      by_cases hx : i < a.lo
      · exact .inl ⟨hm, hx⟩
      · refine .inr ⟨?_, fun ⟨r, h5, h6⟩ => hn ⟨r, List.mem_cons_of_mem _ h5, h6⟩⟩
        by_contra hc
        exact hn ⟨a, List.mem_cons_self, by unfold Holds; omega⟩

/-- The gaps between ascending runs are not empty, lie within the cycle, and ascend with a gap between neighbours. -/
theorem gapsFrom_runsFrom {xs : List CountRun} {m : Nat} (h : RunsFrom m xs) : RunsFrom m (gapsFrom m xs) := by
  induction xs generalizing m with
  | nil =>
    unfold gapsFrom cycleCounts
    split
    · exact ⟨le_refl _, by assumption, le_refl _, trivial⟩
    · trivial
  | cons a rest ih =>
    obtain ⟨h1, h2, h3, h4⟩ := h
    have hr := ih (h4.mono (Nat.le_succ _))
    rw [gapsFrom_cons]
    split
    · exact ⟨le_refl _, by assumption, by simp; omega, hr.mono (by simp; omega)⟩
    · exact hr.mono (by omega)

/-- The non-conducting runs hold exactly the counts at which the output does not conduct (R81). -/
theorem offRuns_holds (d : DriveCh) (h : d.onTime ≤ 4096) (i : Nat) (hi : i < 4096) :
    (∃ r ∈ d.offRuns, Holds r i) ↔ ¬ ConductsAt d i := by
  unfold DriveCh.offRuns
  rw [gapsFrom_holds (onRuns_runsFrom d) i hi, onRuns_holds d h i hi]
  simp

/-- No run holds the count after a run's end or the count before its beginning. -/
theorem RunsFrom.edges {xs : List CountRun} {m : Nat} (h : RunsFrom m xs) {a : CountRun} (ha : a ∈ xs) (i : Nat)
    (hi : i + 1 = a.lo ∨ i = a.hi) : ¬ ∃ r ∈ xs, Holds r i := by
  induction xs generalizing m with
  | nil => simp
  | cons b rest ih =>
    obtain ⟨h1, h2, h3, h4⟩ := h
    have hlo := h4.lo
    rintro ⟨r, hr, hh⟩
    unfold Holds at hh
    rcases List.mem_cons.mp ha with rfl | ha'
    · rcases List.mem_cons.mp hr with rfl | hr'
      · omega
      · have := hlo r hr'; omega
    · rcases List.mem_cons.mp hr with rfl | hr'
      · have := hlo a ha'; omega
      · exact ih h4 ha' ⟨r, hr', hh⟩

/-- The runs in both of two lists of ascending runs are maximal runs of the counts that both hold. -/
theorem meetRuns_maximal {xs ys : List CountRun} (hx : RunsFrom 0 xs) (hy : RunsFrom 0 ys) {r : CountRun}
    (hr : r ∈ meetRuns xs ys) : r.lo < r.hi ∧ r.hi ≤ 4096 ∧
      (∀ i, Holds r i → (∃ a ∈ xs, Holds a i) ∧ ∃ b ∈ ys, Holds b i) ∧
      ∀ i, i + 1 = r.lo ∨ i = r.hi → ¬ ((∃ a ∈ xs, Holds a i) ∧ ∃ b ∈ ys, Holds b i) := by
  have hr0 := hr
  simp only [meetRuns, List.mem_flatMap, List.mem_filterMap] at hr
  obtain ⟨a, ha, b, hb, h⟩ := hr
  unfold CountRun.meet at h
  split at h
  · rename_i hc
    cases h
    have h1 := hx.lo a ha
    refine ⟨hc, by simp; omega, fun i hi => (meetRuns_holds xs ys i).mp ⟨_, hr0, hi⟩, ?_⟩
    rintro i hi ⟨h2, h3⟩
    simp only at hi
    have h4 : ¬ (i + 1 = a.lo ∨ i = a.hi) := fun h => hx.edges ha i h h2
    have h5 : ¬ (i + 1 = b.lo ∨ i = b.hi) := fun h => hy.edges hb i h h3
    omega
  · cases h

/-- The non-conducting runs ascend with a gap between neighbours. -/
theorem offRuns_runsFrom (d : DriveCh) : RunsFrom 0 d.offRuns := gapsFrom_runsFrom (onRuns_runsFrom d)

/-- The full-scale current is 0 exactly with REF open (R75). -/
theorem imax_eq_zero (o : Option Nat) : imax o = 0 ↔ o = none := by
  cases o with
  | none => simp [imax]
  | some r =>
    simp only [imax, reduceCtorEq, iff_false]
    split
    · decide
    · rename_i h
      have : (r : Rat) ≠ 0 := by
        have : r ≠ 0 := by omega
        exact_mod_cast this
      simp [this]

end Sys2Proof.Machine
end

