-- ==== Sys2Proof/Laws/State.lean ====
section
/-! SUPPORT. The small lemmas of the named updates of State: one per field per update, true by rfl. -/

namespace Sys2Proof.Machine

open Sys2Proof

/-! ### onLink -/

@[simp] theorem onLink_link (f : Link → Link) (s : State) : (onLink f s).link = f s.link := rfl

@[simp] theorem onLink_tables (f : Link → Link) (s : State) : (onLink f s).tables = s.tables := rfl

@[simp] theorem onLink_parcels (f : Link → Link) (s : State) : (onLink f s).parcels = s.parcels := rfl

@[simp] theorem onLink_levels (f : Link → Link) (s : State) : (onLink f s).levels = s.levels := rfl

@[simp] theorem onLink_drive (f : Link → Link) (s : State) : (onLink f s).drive = s.drive := rfl

@[simp] theorem onLink_diag (f : Link → Link) (s : State) : (onLink f s).diag = s.diag := rfl

@[simp] theorem onLink_thermal (f : Link → Link) (s : State) : (onLink f s).thermal = s.thermal := rfl

@[simp] theorem onLink_supply (f : Link → Link) (s : State) : (onLink f s).supply = s.supply := rfl

@[simp] theorem onLink_watch (f : Link → Link) (s : State) : (onLink f s).watch = s.watch := rfl

@[simp] theorem onLink_ret (f : Link → Link) (s : State) : (onLink f s).ret = s.ret := rfl

@[simp] theorem onLink_snap (f : Link → Link) (s : State) : (onLink f s).snap = s.snap := rfl

@[simp] theorem onLink_pins (f : Link → Link) (s : State) : (onLink f s).pins = s.pins := rfl

@[simp] theorem onLink_freeUses (f : Link → Link) (s : State) : (onLink f s).freeUses = s.freeUses := rfl

@[simp] theorem onLink_pending (f : Link → Link) (s : State) : (onLink f s).pending = s.pending := rfl

/-! ### takeParcel -/

@[simp] theorem takeParcel_link (rest : List Parcel) (s : State) : (takeParcel rest s).link = s.link := rfl

@[simp] theorem takeParcel_tables (rest : List Parcel) (s : State) : (takeParcel rest s).tables = s.tables := rfl

@[simp] theorem takeParcel_parcels (rest : List Parcel) (s : State) : (takeParcel rest s).parcels = { s.parcels with buffer := rest } := rfl

@[simp] theorem takeParcel_levels (rest : List Parcel) (s : State) : (takeParcel rest s).levels = s.levels := rfl

@[simp] theorem takeParcel_drive (rest : List Parcel) (s : State) : (takeParcel rest s).drive = s.drive := rfl

@[simp] theorem takeParcel_diag (rest : List Parcel) (s : State) : (takeParcel rest s).diag = s.diag := rfl

@[simp] theorem takeParcel_thermal (rest : List Parcel) (s : State) : (takeParcel rest s).thermal = s.thermal := rfl

@[simp] theorem takeParcel_supply (rest : List Parcel) (s : State) : (takeParcel rest s).supply = s.supply := rfl

@[simp] theorem takeParcel_watch (rest : List Parcel) (s : State) : (takeParcel rest s).watch = s.watch := rfl

@[simp] theorem takeParcel_ret (rest : List Parcel) (s : State) : (takeParcel rest s).ret = s.ret := rfl

@[simp] theorem takeParcel_snap (rest : List Parcel) (s : State) : (takeParcel rest s).snap = s.snap := rfl

@[simp] theorem takeParcel_pins (rest : List Parcel) (s : State) : (takeParcel rest s).pins = s.pins := rfl

@[simp] theorem takeParcel_freeUses (rest : List Parcel) (s : State) : (takeParcel rest s).freeUses = s.freeUses := rfl

@[simp] theorem takeParcel_pending (rest : List Parcel) (s : State) : (takeParcel rest s).pending = s.pending := rfl

/-! ### loseMessage -/

@[simp] theorem loseMessage_link (s : State) : (loseMessage s).link = s.link := rfl

@[simp] theorem loseMessage_tables (s : State) : (loseMessage s).tables = s.tables := rfl

@[simp] theorem loseMessage_parcels (s : State) : (loseMessage s).parcels = s.parcels := rfl

@[simp] theorem loseMessage_levels (s : State) : (loseMessage s).levels = s.levels := rfl

@[simp] theorem loseMessage_drive (s : State) : (loseMessage s).drive = s.drive := rfl

@[simp] theorem loseMessage_diag (s : State) : (loseMessage s).diag = s.diag := rfl

@[simp] theorem loseMessage_thermal (s : State) : (loseMessage s).thermal = s.thermal := rfl

@[simp] theorem loseMessage_supply (s : State) : (loseMessage s).supply = s.supply := rfl

@[simp] theorem loseMessage_watch (s : State) : (loseMessage s).watch = s.watch := rfl

@[simp] theorem loseMessage_ret (s : State) : (loseMessage s).ret = { s.ret with lost := true } := rfl

@[simp] theorem loseMessage_snap (s : State) : (loseMessage s).snap = s.snap := rfl

@[simp] theorem loseMessage_pins (s : State) : (loseMessage s).pins = s.pins := rfl

@[simp] theorem loseMessage_freeUses (s : State) : (loseMessage s).freeUses = s.freeUses := rfl

@[simp] theorem loseMessage_pending (s : State) : (loseMessage s).pending = s.pending := rfl

/-! ### joinMsg -/

@[simp] theorem joinMsg_link (x : Content) (s : State) : (joinMsg x s).link = s.link := rfl

@[simp] theorem joinMsg_tables (x : Content) (s : State) : (joinMsg x s).tables = s.tables := rfl

@[simp] theorem joinMsg_parcels (x : Content) (s : State) : (joinMsg x s).parcels = s.parcels := rfl

@[simp] theorem joinMsg_levels (x : Content) (s : State) : (joinMsg x s).levels = s.levels := rfl

@[simp] theorem joinMsg_drive (x : Content) (s : State) : (joinMsg x s).drive = s.drive := rfl

@[simp] theorem joinMsg_diag (x : Content) (s : State) : (joinMsg x s).diag = s.diag := rfl

@[simp] theorem joinMsg_thermal (x : Content) (s : State) : (joinMsg x s).thermal = s.thermal := rfl

@[simp] theorem joinMsg_supply (x : Content) (s : State) : (joinMsg x s).supply = s.supply := rfl

@[simp] theorem joinMsg_watch (x : Content) (s : State) : (joinMsg x s).watch = s.watch := rfl

@[simp] theorem joinMsg_ret (x : Content) (s : State) : (joinMsg x s).ret = { s.ret with
      queue := s.ret.queue ++ [{ source := s.link.address, lost := s.ret.lost, content := x }], lost := false } := rfl

@[simp] theorem joinMsg_snap (x : Content) (s : State) : (joinMsg x s).snap = s.snap := rfl

@[simp] theorem joinMsg_pins (x : Content) (s : State) : (joinMsg x s).pins = s.pins := rfl

@[simp] theorem joinMsg_freeUses (x : Content) (s : State) : (joinMsg x s).freeUses = s.freeUses := rfl

@[simp] theorem joinMsg_pending (x : Content) (s : State) : (joinMsg x s).pending = s.pending := rfl

/-! ### setLinkFlag -/

@[simp] theorem setLinkFlag_link (left : LinkState) (s : State) : (setLinkFlag left s).link = s.link := rfl

@[simp] theorem setLinkFlag_tables (left : LinkState) (s : State) : (setLinkFlag left s).tables = s.tables := rfl

@[simp] theorem setLinkFlag_parcels (left : LinkState) (s : State) : (setLinkFlag left s).parcels = s.parcels := rfl

@[simp] theorem setLinkFlag_levels (left : LinkState) (s : State) : (setLinkFlag left s).levels = s.levels := rfl

@[simp] theorem setLinkFlag_drive (left : LinkState) (s : State) : (setLinkFlag left s).drive = s.drive := rfl

@[simp] theorem setLinkFlag_diag (left : LinkState) (s : State) : (setLinkFlag left s).diag = s.diag := rfl

@[simp] theorem setLinkFlag_thermal (left : LinkState) (s : State) : (setLinkFlag left s).thermal = s.thermal := rfl

@[simp] theorem setLinkFlag_supply (left : LinkState) (s : State) : (setLinkFlag left s).supply = s.supply := rfl

@[simp] theorem setLinkFlag_watch (left : LinkState) (s : State) : (setLinkFlag left s).watch = s.watch := rfl

@[simp] theorem setLinkFlag_ret (left : LinkState) (s : State) : (setLinkFlag left s).ret = { s.ret with linkFlag := true, prevLink := left } := rfl

@[simp] theorem setLinkFlag_snap (left : LinkState) (s : State) : (setLinkFlag left s).snap = s.snap := rfl

@[simp] theorem setLinkFlag_pins (left : LinkState) (s : State) : (setLinkFlag left s).pins = s.pins := rfl

@[simp] theorem setLinkFlag_freeUses (left : LinkState) (s : State) : (setLinkFlag left s).freeUses = s.freeUses := rfl

@[simp] theorem setLinkFlag_pending (left : LinkState) (s : State) : (setLinkFlag left s).pending = s.pending := rfl

/-! ### startCycle -/

@[simp] theorem startCycle_link (s : State) : (startCycle s).link = s.link := rfl

@[simp] theorem startCycle_tables (s : State) : (startCycle s).tables = s.tables := rfl

@[simp] theorem startCycle_parcels (s : State) : (startCycle s).parcels = s.parcels := rfl

@[simp] theorem startCycle_levels (s : State) : (startCycle s).levels = s.levels := rfl

@[simp] theorem startCycle_drive (s : State) : (startCycle s).drive = {
      running := true, rate := driveRate s.tables.drive.active, ch := Vector.ofFn fun c => s.takenAtStart c } := rfl

@[simp] theorem startCycle_diag (s : State) : (startCycle s).diag = s.diag := rfl

@[simp] theorem startCycle_thermal (s : State) : (startCycle s).thermal = s.thermal := rfl

@[simp] theorem startCycle_supply (s : State) : (startCycle s).supply = s.supply := rfl

@[simp] theorem startCycle_watch (s : State) : (startCycle s).watch = s.watch := rfl

@[simp] theorem startCycle_ret (s : State) : (startCycle s).ret = s.ret := rfl

@[simp] theorem startCycle_snap (s : State) : (startCycle s).snap = s.snap := rfl

@[simp] theorem startCycle_pins (s : State) : (startCycle s).pins = s.pins := rfl

@[simp] theorem startCycle_freeUses (s : State) : (startCycle s).freeUses = s.freeUses := rfl

@[simp] theorem startCycle_pending (s : State) : (startCycle s).pending = s.pending := rfl

/-! ### completeTransmission -/

@[simp] theorem completeTransmission_link (s : State) : (completeTransmission s).link = s.link := rfl

@[simp] theorem completeTransmission_tables (s : State) : (completeTransmission s).tables = s.tables := rfl

@[simp] theorem completeTransmission_parcels (s : State) : (completeTransmission s).parcels = s.parcels := rfl

@[simp] theorem completeTransmission_levels (s : State) : (completeTransmission s).levels = s.levels := rfl

@[simp] theorem completeTransmission_drive (s : State) : (completeTransmission s).drive = s.drive := rfl

@[simp] theorem completeTransmission_diag (s : State) : (completeTransmission s).diag = s.diag := rfl

@[simp] theorem completeTransmission_thermal (s : State) : (completeTransmission s).thermal = s.thermal := rfl

@[simp] theorem completeTransmission_supply (s : State) : (completeTransmission s).supply = s.supply := rfl

@[simp] theorem completeTransmission_watch (s : State) : (completeTransmission s).watch = s.watch := rfl

@[simp] theorem completeTransmission_ret (s : State) : (completeTransmission s).ret = { s.ret with ro := none } := rfl

@[simp] theorem completeTransmission_snap (s : State) : (completeTransmission s).snap = s.snap := rfl

@[simp] theorem completeTransmission_pins (s : State) : (completeTransmission s).pins = s.pins := rfl

@[simp] theorem completeTransmission_freeUses (s : State) : (completeTransmission s).freeUses = s.freeUses := rfl

@[simp] theorem completeTransmission_pending (s : State) : (completeTransmission s).pending = s.pending := rfl

/-! ### extraWord -/

@[simp] theorem extraWord_link (s : State) : (extraWord s).link = { s.link with framingExact := false } := rfl

@[simp] theorem extraWord_tables (s : State) : (extraWord s).tables = s.tables := rfl

@[simp] theorem extraWord_parcels (s : State) : (extraWord s).parcels = s.parcels := rfl

@[simp] theorem extraWord_levels (s : State) : (extraWord s).levels = s.levels := rfl

@[simp] theorem extraWord_drive (s : State) : (extraWord s).drive = s.drive := rfl

@[simp] theorem extraWord_diag (s : State) : (extraWord s).diag = s.diag := rfl

@[simp] theorem extraWord_thermal (s : State) : (extraWord s).thermal = s.thermal := rfl

@[simp] theorem extraWord_supply (s : State) : (extraWord s).supply = s.supply := rfl

@[simp] theorem extraWord_watch (s : State) : (extraWord s).watch = s.watch := rfl

@[simp] theorem extraWord_ret (s : State) : (extraWord s).ret = s.ret := rfl

@[simp] theorem extraWord_snap (s : State) : (extraWord s).snap = s.snap := rfl

@[simp] theorem extraWord_pins (s : State) : (extraWord s).pins = s.pins := rfl

@[simp] theorem extraWord_freeUses (s : State) : (extraWord s).freeUses = s.freeUses := rfl

@[simp] theorem extraWord_pending (s : State) : (extraWord s).pending = s.pending := rfl

/-! ### badSweepEnd -/

@[simp] theorem badSweepEnd_link (sw : Sweep) (s : State) : (badSweepEnd sw s).link = s.link := rfl

@[simp] theorem badSweepEnd_tables (sw : Sweep) (s : State) : (badSweepEnd sw s).tables = s.tables := rfl

@[simp] theorem badSweepEnd_parcels (sw : Sweep) (s : State) : (badSweepEnd sw s).parcels = { s.parcels with
      buffer := removeUnexecutable s.parcels.buffer, account := none } := rfl

@[simp] theorem badSweepEnd_levels (sw : Sweep) (s : State) : (badSweepEnd sw s).levels = levelsAtBadEnd sw.kind s.levels := rfl

@[simp] theorem badSweepEnd_drive (sw : Sweep) (s : State) : (badSweepEnd sw s).drive = s.drive := rfl

@[simp] theorem badSweepEnd_diag (sw : Sweep) (s : State) : (badSweepEnd sw s).diag = s.diag := rfl

@[simp] theorem badSweepEnd_thermal (sw : Sweep) (s : State) : (badSweepEnd sw s).thermal = s.thermal := rfl

@[simp] theorem badSweepEnd_supply (sw : Sweep) (s : State) : (badSweepEnd sw s).supply = s.supply := rfl

@[simp] theorem badSweepEnd_watch (sw : Sweep) (s : State) : (badSweepEnd sw s).watch = s.watch := rfl

@[simp] theorem badSweepEnd_ret (sw : Sweep) (s : State) : (badSweepEnd sw s).ret = s.ret := rfl

@[simp] theorem badSweepEnd_snap (sw : Sweep) (s : State) : (badSweepEnd sw s).snap = s.snap := rfl

@[simp] theorem badSweepEnd_pins (sw : Sweep) (s : State) : (badSweepEnd sw s).pins = s.pins := rfl

@[simp] theorem badSweepEnd_freeUses (sw : Sweep) (s : State) : (badSweepEnd sw s).freeUses = s.freeUses := rfl

@[simp] theorem badSweepEnd_pending (sw : Sweep) (s : State) : (badSweepEnd sw s).pending = s.pending := rfl

/-! ### earlyClose -/

@[simp] theorem earlyClose_link (s : State) : (earlyClose s).link = (s.link.close poisonMark s.asked).enter .waitStart := rfl

@[simp] theorem earlyClose_tables (s : State) : (earlyClose s).tables = s.tables := rfl

@[simp] theorem earlyClose_parcels (s : State) : (earlyClose s).parcels = s.parcels := rfl

@[simp] theorem earlyClose_levels (s : State) : (earlyClose s).levels = s.levels := rfl

@[simp] theorem earlyClose_drive (s : State) : (earlyClose s).drive = s.drive := rfl

@[simp] theorem earlyClose_diag (s : State) : (earlyClose s).diag = s.diag := rfl

@[simp] theorem earlyClose_thermal (s : State) : (earlyClose s).thermal = s.thermal := rfl

@[simp] theorem earlyClose_supply (s : State) : (earlyClose s).supply = s.supply := rfl

@[simp] theorem earlyClose_watch (s : State) : (earlyClose s).watch = s.watch := rfl

@[simp] theorem earlyClose_ret (s : State) : (earlyClose s).ret = s.ret := rfl

@[simp] theorem earlyClose_snap (s : State) : (earlyClose s).snap = s.snap := rfl

@[simp] theorem earlyClose_pins (s : State) : (earlyClose s).pins = s.pins := rfl

@[simp] theorem earlyClose_freeUses (s : State) : (earlyClose s).freeUses = s.freeUses := rfl

@[simp] theorem earlyClose_pending (s : State) : (earlyClose s).pending = s.pending := rfl

/-! ### rejectHeader -/

@[simp] theorem rejectHeader_link (w2 : Word) (s : State) : (rejectHeader w2 s).link = (((s.link.feedIn w2).sendWord w2).close poisonMark s.asked).enter .skip := rfl

@[simp] theorem rejectHeader_tables (w2 : Word) (s : State) : (rejectHeader w2 s).tables = s.tables := rfl

@[simp] theorem rejectHeader_parcels (w2 : Word) (s : State) : (rejectHeader w2 s).parcels = s.parcels := rfl

@[simp] theorem rejectHeader_levels (w2 : Word) (s : State) : (rejectHeader w2 s).levels = s.levels := rfl

@[simp] theorem rejectHeader_drive (w2 : Word) (s : State) : (rejectHeader w2 s).drive = s.drive := rfl

@[simp] theorem rejectHeader_diag (w2 : Word) (s : State) : (rejectHeader w2 s).diag = s.diag := rfl

@[simp] theorem rejectHeader_thermal (w2 : Word) (s : State) : (rejectHeader w2 s).thermal = s.thermal := rfl

@[simp] theorem rejectHeader_supply (w2 : Word) (s : State) : (rejectHeader w2 s).supply = s.supply := rfl

@[simp] theorem rejectHeader_watch (w2 : Word) (s : State) : (rejectHeader w2 s).watch = s.watch := rfl

@[simp] theorem rejectHeader_ret (w2 : Word) (s : State) : (rejectHeader w2 s).ret = s.ret := rfl

@[simp] theorem rejectHeader_snap (w2 : Word) (s : State) : (rejectHeader w2 s).snap = s.snap := rfl

@[simp] theorem rejectHeader_pins (w2 : Word) (s : State) : (rejectHeader w2 s).pins = s.pins := rfl

@[simp] theorem rejectHeader_freeUses (w2 : Word) (s : State) : (rejectHeader w2 s).freeUses = s.freeUses := rfl

@[simp] theorem rejectHeader_pending (w2 : Word) (s : State) : (rejectHeader w2 s).pending = s.pending := rfl

/-! ### beginReset -/

@[simp] theorem beginReset_pins (p : Pins) (s : State) : (beginReset p s).pins = { p with phase := .held } := rfl

@[simp] theorem beginReset_freeUses (p : Pins) (s : State) : (beginReset p s).freeUses = s.freeUses := rfl

@[simp] theorem beginReset_pending (p : Pins) (s : State) : (beginReset p s).pending = s.pending := rfl

end Sys2Proof.Machine
end

