-- ==== Sys2Proof/Laws/Ops.lean ====
section
/-! SUPPORT. One lemma per shared operation that says what it can do, and what it leaves alone. -/

namespace Sys2Proof.Machine

open Sys2Proof

/-! ### The DO queue -/

/-- A symbol joins the tail when there is room; else it is dropped, and the framing of a sweep in flight is lost (R23). -/
theorem push_cases (x : Symbol) (l : Link) :
    (l.doQueue.length < 16 ∧ l.push x = { l with doQueue := l.doQueue ++ [x] }) ∨
      (16 ≤ l.doQueue.length ∧ l.push x = { l with framingExact := l.framingExact && !l.rx.inFlight }) := by
  unfold Link.push Link.dropped doCapacity
  by_cases h : l.doQueue.length < 16
  · simp [h]
  · refine .inr ⟨by omega, ?_⟩
    cases hf : l.rx.inFlight <;> simp [h]

/-- A word of the outgoing sweep joins and enters the outbound check, or does neither (R23, R32). -/
theorem sendWord_cases (w : Word) (l : Link) :
    (l.doQueue.length < 16 ∧
        l.sendWord w = { l with doQueue := l.doQueue ++ [.word w], outCrc := crcWord l.outCrc w }) ∨
      (16 ≤ l.doQueue.length ∧ l.sendWord w = { l with framingExact := l.framingExact && !l.rx.inFlight }) := by
  unfold Link.sendWord Link.dropped doCapacity
  by_cases h : l.doQueue.length < 16
  · simp [h]
  · refine .inr ⟨by omega, ?_⟩
    cases hf : l.rx.inFlight <;> simp [h]

/-- What neither a joining nor a dropped symbol changes. -/
structure Link.SameBut (a b : Link) : Prop where
  rx : a.rx = b.rx
  inCrc : a.inCrc = b.inCrc
  voidMark : a.voidMark = b.voidMark
  fwdCount : a.fwdCount = b.fwdCount
  address : a.address = b.address
  lastGood : a.lastGood = b.lastGood
  flowIn : a.flowIn = b.flowIn
  doLane : a.doLane = b.doLane

theorem push_same (x : Symbol) (l : Link) : (l.push x).SameBut l := by
  rcases push_cases x l with ⟨_, h⟩ | ⟨_, h⟩ <;> rw [h] <;> exact ⟨rfl, rfl, rfl, rfl, rfl, rfl, rfl, rfl⟩

theorem sendWord_same (w : Word) (l : Link) : (l.sendWord w).SameBut l := by
  rcases sendWord_cases w l with ⟨_, h⟩ | ⟨_, h⟩ <;> rw [h] <;> exact ⟨rfl, rfl, rfl, rfl, rfl, rfl, rfl, rfl⟩

@[simp] theorem push_rx (x : Symbol) (l : Link) : (l.push x).rx = l.rx := (push_same x l).rx
@[simp] theorem push_inCrc (x : Symbol) (l : Link) : (l.push x).inCrc = l.inCrc := (push_same x l).inCrc
@[simp] theorem push_voidMark (x : Symbol) (l : Link) : (l.push x).voidMark = l.voidMark := (push_same x l).voidMark
@[simp] theorem push_fwdCount (x : Symbol) (l : Link) : (l.push x).fwdCount = l.fwdCount := (push_same x l).fwdCount
@[simp] theorem push_address (x : Symbol) (l : Link) : (l.push x).address = l.address := (push_same x l).address
@[simp] theorem push_lastGood (x : Symbol) (l : Link) : (l.push x).lastGood = l.lastGood := (push_same x l).lastGood
@[simp] theorem push_flowIn (x : Symbol) (l : Link) : (l.push x).flowIn = l.flowIn := (push_same x l).flowIn
@[simp] theorem push_doLane (x : Symbol) (l : Link) : (l.push x).doLane = l.doLane := (push_same x l).doLane
@[simp] theorem sendWord_rx (w : Word) (l : Link) : (l.sendWord w).rx = l.rx := (sendWord_same w l).rx
@[simp] theorem sendWord_inCrc (w : Word) (l : Link) : (l.sendWord w).inCrc = l.inCrc := (sendWord_same w l).inCrc
@[simp] theorem sendWord_voidMark (w : Word) (l : Link) : (l.sendWord w).voidMark = l.voidMark := (sendWord_same w l).voidMark
@[simp] theorem sendWord_fwdCount (w : Word) (l : Link) : (l.sendWord w).fwdCount = l.fwdCount := (sendWord_same w l).fwdCount
@[simp] theorem sendWord_address (w : Word) (l : Link) : (l.sendWord w).address = l.address := (sendWord_same w l).address
@[simp] theorem sendWord_lastGood (w : Word) (l : Link) : (l.sendWord w).lastGood = l.lastGood := (sendWord_same w l).lastGood
@[simp] theorem sendWord_flowIn (w : Word) (l : Link) : (l.sendWord w).flowIn = l.flowIn := (sendWord_same w l).flowIn
@[simp] theorem sendWord_doLane (w : Word) (l : Link) : (l.sendWord w).doLane = l.doLane := (sendWord_same w l).doLane

@[simp] theorem close_address (m : Word) (f : Flow) (l : Link) : (l.close m f).address = l.address := by simp [Link.close]
@[simp] theorem close_rx (m : Word) (f : Flow) (l : Link) : (l.close m f).rx = l.rx := by simp [Link.close]
@[simp] theorem close_voidMark (m : Word) (f : Flow) (l : Link) : (l.close m f).voidMark = l.voidMark := by
  simp [Link.close]
@[simp] theorem close_fwdCount (m : Word) (f : Flow) (l : Link) : (l.close m f).fwdCount = l.fwdCount := by
  simp [Link.close]
@[simp] theorem close_lastGood (m : Word) (f : Flow) (l : Link) : (l.close m f).lastGood = l.lastGood := by
  simp [Link.close]
@[simp] theorem close_flowIn (m : Word) (f : Flow) (l : Link) : (l.close m f).flowIn = l.flowIn := by simp [Link.close]
@[simp] theorem enter_address (r : Rx) (l : Link) : (l.enter r).address = l.address := rfl
@[simp] theorem enter_rx (r : Rx) (l : Link) : (l.enter r).rx = r := rfl
@[simp] theorem enter_fwdCount (r : Rx) (l : Link) : (l.enter r).fwdCount = l.fwdCount := rfl
@[simp] theorem enter_doQueue (r : Rx) (l : Link) : (l.enter r).doQueue = l.doQueue := rfl
@[simp] theorem feedIn_address (w : Word) (l : Link) : (l.feedIn w).address = l.address := rfl
@[simp] theorem feedIn_rx (w : Word) (l : Link) : (l.feedIn w).rx = l.rx := rfl
@[simp] theorem feedIn_fwdCount (w : Word) (l : Link) : (l.feedIn w).fwdCount = l.fwdCount := rfl
@[simp] theorem feedIn_doQueue (w : Word) (l : Link) : (l.feedIn w).doQueue = l.doQueue := rfl
@[simp] theorem begin_address (l : Link) : l.begin.address = l.address := by simp [Link.begin]
@[simp] theorem begin_rx (l : Link) : l.begin.rx = .header [] := by simp [Link.begin]

/-- A joining symbol never brings the DO queue above 16 (R23). -/
theorem push_bound (x : Symbol) (l : Link) (h : l.doQueue.length ≤ 16) : (l.push x).doQueue.length ≤ 16 := by
  rcases push_cases x l with ⟨hl, e⟩ | ⟨_, e⟩ <;> rw [e] <;> simp <;> omega

theorem sendWord_bound (w : Word) (l : Link) (h : l.doQueue.length ≤ 16) : (l.sendWord w).doQueue.length ≤ 16 := by
  rcases sendWord_cases w l with ⟨hl, e⟩ | ⟨_, e⟩ <;> rw [e] <;> simp <;> omega

theorem close_bound (m : Word) (f : Flow) (l : Link) (h : l.doQueue.length ≤ 16) : (l.close m f).doQueue.length ≤ 16 :=
  push_bound _ _ (push_bound _ _ (push_bound _ _ (push_bound _ _ h)))

/-- With room for its four symbols a closing puts check word, mark, END and the flow symbol into the queue (R28, R45). -/
theorem close_room (m : Word) (f : Flow) (l : Link) (h : l.doQueue.length + 4 ≤ 16) :
    l.close m f = { l with doQueue := l.doQueue ++ [.word l.outCrc, .word m, .endSym, .flow f] } := by
  have h1 : l.doQueue.length < 16 := by omega
  have h2 : l.doQueue.length + 1 < 16 := by omega
  have h3 : l.doQueue.length + 2 < 16 := by omega
  have h4 : l.doQueue.length + 3 < 16 := by omega
  simp [Link.close, Link.push, doCapacity, h1, h2, h3, h4]

/-! ### Flow changes -/

theorem sendFlowChange_cases (b : Flow) (s : State) :
    sendFlowChange b s = s ∨
      (s.asked ≠ b ∧ s.link.rx.inFlight = false ∧
        sendFlowChange b s = { s with link := s.link.push (.flow s.asked) }) := by
  unfold sendFlowChange
  by_cases h : s.asked = b ∨ s.link.rx.inFlight = true
  · exact .inl (by simp [h])
  · push Not at h
    refine .inr ⟨h.1, by simpa using h.2, by simp [h]⟩

/-! ### Notices -/

/-- What the joining of a notice leaves alone. -/
structure SameButNotices (t s : State) : Prop where
  link : t.link = s.link
  tables : t.tables = s.tables
  parcels : t.parcels = s.parcels
  levels : t.levels = s.levels
  drive : t.drive = s.drive
  records : t.diag.records = s.diag.records
  latches : t.diag.latches = s.diag.latches
  thermal : t.thermal = s.thermal
  supply : t.supply = s.supply
  watch : t.watch = s.watch
  pass : t.ret.pass = s.ret.pass
  ri : t.ret.ri = s.ret.ri
  ro : t.ret.ro = s.ret.ro
  prevLink : t.ret.prevLink = s.ret.prevLink
  passCount : t.ret.passCount = s.ret.passCount
  snap : t.snap = s.snap
  pins : t.pins = s.pins
  freeUses : t.freeUses = s.freeUses
  pending : t.pending = s.pending

theorem SameButNotices.refl (s : State) : SameButNotices s s :=
  ⟨rfl, rfl, rfl, rfl, rfl, rfl, rfl, rfl, rfl, rfl, rfl, rfl, rfl, rfl, rfl, rfl, rfl, rfl, rfl⟩

theorem SameButNotices.trans {a b c : State} (h : SameButNotices a b) (k : SameButNotices b c) :
    SameButNotices a c :=
  ⟨h.link.trans k.link, h.tables.trans k.tables, h.parcels.trans k.parcels, h.levels.trans k.levels,
    h.drive.trans k.drive, h.records.trans k.records, h.latches.trans k.latches, h.thermal.trans k.thermal,
    h.supply.trans k.supply, h.watch.trans k.watch, h.pass.trans k.pass, h.ri.trans k.ri, h.ro.trans k.ro,
    h.prevLink.trans k.prevLink, h.passCount.trans k.passCount, h.snap.trans k.snap, h.pins.trans k.pins,
    h.freeUses.trans k.freeUses, h.pending.trans k.pending⟩

theorem joinMsg_same (x : Content) (s : State) : SameButNotices (joinMsg x s) s :=
  ⟨rfl, rfl, rfl, rfl, rfl, rfl, rfl, rfl, rfl, rfl, rfl, rfl, rfl, rfl, rfl, rfl, rfl, rfl, rfl⟩

theorem loseMessage_same (s : State) : SameButNotices (loseMessage s) s :=
  ⟨rfl, rfl, rfl, rfl, rfl, rfl, rfl, rfl, rfl, rfl, rfl, rfl, rfl, rfl, rfl, rfl, rfl, rfl, rfl⟩

theorem consumePending_same (s : State) (k : NoticeKind) : SameButNotices (consumePending s k) s := by
  cases k <;> constructor <;> simp only [consumePending]

@[simp] theorem consumePending_queue (s : State) (k : NoticeKind) : (consumePending s k).ret.queue = s.ret.queue := by
  cases k <;> rfl

@[simp] theorem consumePending_lost (s : State) (k : NoticeKind) : (consumePending s k).ret.lost = s.ret.lost := by
  cases k <;> rfl

/-- A notice joins when it is eligible, with the body of this moment, and its pending state is consumed; else nothing
happens (R137). -/
theorem joinNotice_cases (k : NoticeKind) (s : State) :
    (noticeEligible s k = false ∧ joinNotice k s = s) ∨
      (noticeEligible s k = true ∧ joinNotice k s = joinMsg (.notice k (noticeBody s k)) (consumePending s k)) := by
  unfold joinNotice
  cases h : noticeEligible s k <;> simp

theorem joinNotice_same (k : NoticeKind) (s : State) : SameButNotices (joinNotice k s) s := by
  rcases joinNotice_cases k s with ⟨_, h⟩ | ⟨_, h⟩ <;> rw [h]
  · exact .refl s
  · exact (joinMsg_same _ _).trans (consumePending_same s k)

theorem joinNotices_same (s : State) : SameButNotices (joinNotices s) s :=
  (joinNotice_same _ _).trans ((joinNotice_same _ _).trans ((joinNotice_same _ _).trans (joinNotice_same _ s)))

theorem reraise_same (s : State) (m : Msg) : SameButNotices (reraise s m) s := by
  rcases m with ⟨src, lost, c⟩
  rcases c with _ | ⟨k, b⟩
  · exact .refl s
  · cases k <;> constructor <;> simp only [reraise]

theorem foldl_reraise_same (q : List Msg) (s : State) : SameButNotices (q.foldl reraise s) s := by
  induction q generalizing s with
  | nil => exact .refl s
  | cons m rest ih => exact (ih (reraise s m)).trans (reraise_same s m)

theorem flushQueue_same (s : State) : SameButNotices (flushQueue s) s := by
  have h := foldl_reraise_same s.ret.queue s
  exact ⟨h.link, h.tables, h.parcels, h.levels, h.drive, h.records, h.latches, h.thermal, h.supply, h.watch, h.pass,
    h.ri, h.ro, h.prevLink, h.passCount, h.snap, h.pins, h.freeUses, h.pending⟩

@[simp] theorem flushQueue_queue (s : State) : (flushQueue s).ret.queue = [] := rfl
@[simp] theorem flushQueue_lost (s : State) : (flushQueue s).ret.lost = false := rfl

theorem queueOverflowReply_same (a : Option Account) (s : State) : SameButNotices (queueOverflowReply a s) s := by
  unfold queueOverflowReply
  split
  · exact .refl s
  · split
    · exact .refl s
    · split
      · exact joinMsg_same _ _
      · exact loseMessage_same _

end Sys2Proof.Machine
end

