-- ==== Sys2Proof/Laws/Frames.lean ====
section
/-! SUPPORT. Which blocks each operation of the node leaves alone: one simp lemma per operation and untouched block. -/

namespace Sys2Proof.Machine

open Sys2Proof

/-! ### consumePending -/

@[simp] theorem consumePending_link (s : State) (k : NoticeKind) : (consumePending s k).link = s.link := (consumePending_same s k).link

@[simp] theorem consumePending_tables (s : State) (k : NoticeKind) : (consumePending s k).tables = s.tables := (consumePending_same s k).tables

@[simp] theorem consumePending_parcels (s : State) (k : NoticeKind) : (consumePending s k).parcels = s.parcels := (consumePending_same s k).parcels

@[simp] theorem consumePending_levels (s : State) (k : NoticeKind) : (consumePending s k).levels = s.levels := (consumePending_same s k).levels

@[simp] theorem consumePending_drive (s : State) (k : NoticeKind) : (consumePending s k).drive = s.drive := (consumePending_same s k).drive

@[simp] theorem consumePending_thermal (s : State) (k : NoticeKind) : (consumePending s k).thermal = s.thermal := (consumePending_same s k).thermal

@[simp] theorem consumePending_supply (s : State) (k : NoticeKind) : (consumePending s k).supply = s.supply := (consumePending_same s k).supply

@[simp] theorem consumePending_watch (s : State) (k : NoticeKind) : (consumePending s k).watch = s.watch := (consumePending_same s k).watch

@[simp] theorem consumePending_snap (s : State) (k : NoticeKind) : (consumePending s k).snap = s.snap := (consumePending_same s k).snap

@[simp] theorem consumePending_pins (s : State) (k : NoticeKind) : (consumePending s k).pins = s.pins := (consumePending_same s k).pins

@[simp] theorem consumePending_freeUses (s : State) (k : NoticeKind) : (consumePending s k).freeUses = s.freeUses := (consumePending_same s k).freeUses

@[simp] theorem consumePending_pending (s : State) (k : NoticeKind) : (consumePending s k).pending = s.pending := (consumePending_same s k).pending

/-! ### joinNotice -/

@[simp] theorem joinNotice_link (k : NoticeKind) (s : State) : (joinNotice k s).link = s.link := (joinNotice_same k s).link

@[simp] theorem joinNotice_tables (k : NoticeKind) (s : State) : (joinNotice k s).tables = s.tables := (joinNotice_same k s).tables

@[simp] theorem joinNotice_parcels (k : NoticeKind) (s : State) : (joinNotice k s).parcels = s.parcels := (joinNotice_same k s).parcels

@[simp] theorem joinNotice_levels (k : NoticeKind) (s : State) : (joinNotice k s).levels = s.levels := (joinNotice_same k s).levels

@[simp] theorem joinNotice_drive (k : NoticeKind) (s : State) : (joinNotice k s).drive = s.drive := (joinNotice_same k s).drive

@[simp] theorem joinNotice_thermal (k : NoticeKind) (s : State) : (joinNotice k s).thermal = s.thermal := (joinNotice_same k s).thermal

@[simp] theorem joinNotice_supply (k : NoticeKind) (s : State) : (joinNotice k s).supply = s.supply := (joinNotice_same k s).supply

@[simp] theorem joinNotice_watch (k : NoticeKind) (s : State) : (joinNotice k s).watch = s.watch := (joinNotice_same k s).watch

@[simp] theorem joinNotice_snap (k : NoticeKind) (s : State) : (joinNotice k s).snap = s.snap := (joinNotice_same k s).snap

@[simp] theorem joinNotice_pins (k : NoticeKind) (s : State) : (joinNotice k s).pins = s.pins := (joinNotice_same k s).pins

@[simp] theorem joinNotice_freeUses (k : NoticeKind) (s : State) : (joinNotice k s).freeUses = s.freeUses := (joinNotice_same k s).freeUses

@[simp] theorem joinNotice_pending (k : NoticeKind) (s : State) : (joinNotice k s).pending = s.pending := (joinNotice_same k s).pending

/-! ### joinNotices -/

@[simp] theorem joinNotices_link (s : State) : (joinNotices s).link = s.link := (joinNotices_same s).link

@[simp] theorem joinNotices_tables (s : State) : (joinNotices s).tables = s.tables := (joinNotices_same s).tables

@[simp] theorem joinNotices_parcels (s : State) : (joinNotices s).parcels = s.parcels := (joinNotices_same s).parcels

@[simp] theorem joinNotices_levels (s : State) : (joinNotices s).levels = s.levels := (joinNotices_same s).levels

@[simp] theorem joinNotices_drive (s : State) : (joinNotices s).drive = s.drive := (joinNotices_same s).drive

@[simp] theorem joinNotices_thermal (s : State) : (joinNotices s).thermal = s.thermal := (joinNotices_same s).thermal

@[simp] theorem joinNotices_supply (s : State) : (joinNotices s).supply = s.supply := (joinNotices_same s).supply

@[simp] theorem joinNotices_watch (s : State) : (joinNotices s).watch = s.watch := (joinNotices_same s).watch

@[simp] theorem joinNotices_snap (s : State) : (joinNotices s).snap = s.snap := (joinNotices_same s).snap

@[simp] theorem joinNotices_pins (s : State) : (joinNotices s).pins = s.pins := (joinNotices_same s).pins

@[simp] theorem joinNotices_freeUses (s : State) : (joinNotices s).freeUses = s.freeUses := (joinNotices_same s).freeUses

@[simp] theorem joinNotices_pending (s : State) : (joinNotices s).pending = s.pending := (joinNotices_same s).pending

/-! ### reraise -/

@[simp] theorem reraise_link (s : State) (m : Msg) : (reraise s m).link = s.link := (reraise_same s m).link

@[simp] theorem reraise_tables (s : State) (m : Msg) : (reraise s m).tables = s.tables := (reraise_same s m).tables

@[simp] theorem reraise_parcels (s : State) (m : Msg) : (reraise s m).parcels = s.parcels := (reraise_same s m).parcels

@[simp] theorem reraise_levels (s : State) (m : Msg) : (reraise s m).levels = s.levels := (reraise_same s m).levels

@[simp] theorem reraise_drive (s : State) (m : Msg) : (reraise s m).drive = s.drive := (reraise_same s m).drive

@[simp] theorem reraise_thermal (s : State) (m : Msg) : (reraise s m).thermal = s.thermal := (reraise_same s m).thermal

@[simp] theorem reraise_supply (s : State) (m : Msg) : (reraise s m).supply = s.supply := (reraise_same s m).supply

@[simp] theorem reraise_watch (s : State) (m : Msg) : (reraise s m).watch = s.watch := (reraise_same s m).watch

@[simp] theorem reraise_snap (s : State) (m : Msg) : (reraise s m).snap = s.snap := (reraise_same s m).snap

@[simp] theorem reraise_pins (s : State) (m : Msg) : (reraise s m).pins = s.pins := (reraise_same s m).pins

@[simp] theorem reraise_freeUses (s : State) (m : Msg) : (reraise s m).freeUses = s.freeUses := (reraise_same s m).freeUses

@[simp] theorem reraise_pending (s : State) (m : Msg) : (reraise s m).pending = s.pending := (reraise_same s m).pending

/-! ### flushQueue -/

@[simp] theorem flushQueue_link (s : State) : (flushQueue s).link = s.link := (flushQueue_same s).link

@[simp] theorem flushQueue_tables (s : State) : (flushQueue s).tables = s.tables := (flushQueue_same s).tables

@[simp] theorem flushQueue_parcels (s : State) : (flushQueue s).parcels = s.parcels := (flushQueue_same s).parcels

@[simp] theorem flushQueue_levels (s : State) : (flushQueue s).levels = s.levels := (flushQueue_same s).levels

@[simp] theorem flushQueue_drive (s : State) : (flushQueue s).drive = s.drive := (flushQueue_same s).drive

@[simp] theorem flushQueue_thermal (s : State) : (flushQueue s).thermal = s.thermal := (flushQueue_same s).thermal

@[simp] theorem flushQueue_supply (s : State) : (flushQueue s).supply = s.supply := (flushQueue_same s).supply

@[simp] theorem flushQueue_watch (s : State) : (flushQueue s).watch = s.watch := (flushQueue_same s).watch

@[simp] theorem flushQueue_snap (s : State) : (flushQueue s).snap = s.snap := (flushQueue_same s).snap

@[simp] theorem flushQueue_pins (s : State) : (flushQueue s).pins = s.pins := (flushQueue_same s).pins

@[simp] theorem flushQueue_freeUses (s : State) : (flushQueue s).freeUses = s.freeUses := (flushQueue_same s).freeUses

@[simp] theorem flushQueue_pending (s : State) : (flushQueue s).pending = s.pending := (flushQueue_same s).pending

/-! ### queueOverflowReply -/

theorem queueOverflowReply_keeps (a : Option Account) (s : State) :
    (queueOverflowReply a s).link = s.link ∧ (queueOverflowReply a s).tables = s.tables ∧ (queueOverflowReply a s).parcels = s.parcels ∧ (queueOverflowReply a s).levels = s.levels ∧ (queueOverflowReply a s).drive = s.drive ∧ (queueOverflowReply a s).diag = s.diag ∧ (queueOverflowReply a s).thermal = s.thermal ∧ (queueOverflowReply a s).supply = s.supply ∧ (queueOverflowReply a s).watch = s.watch ∧ (queueOverflowReply a s).snap = s.snap ∧ (queueOverflowReply a s).pins = s.pins ∧ (queueOverflowReply a s).freeUses = s.freeUses ∧ (queueOverflowReply a s).pending = s.pending := by
  unfold queueOverflowReply; (repeat' split) <;> simp

@[simp] theorem queueOverflowReply_link (a : Option Account) (s : State) : (queueOverflowReply a s).link = s.link := (queueOverflowReply_keeps a s).1

@[simp] theorem queueOverflowReply_tables (a : Option Account) (s : State) : (queueOverflowReply a s).tables = s.tables := (queueOverflowReply_keeps a s).2.1

@[simp] theorem queueOverflowReply_parcels (a : Option Account) (s : State) : (queueOverflowReply a s).parcels = s.parcels := (queueOverflowReply_keeps a s).2.2.1

@[simp] theorem queueOverflowReply_levels (a : Option Account) (s : State) : (queueOverflowReply a s).levels = s.levels := (queueOverflowReply_keeps a s).2.2.2.1

@[simp] theorem queueOverflowReply_drive (a : Option Account) (s : State) : (queueOverflowReply a s).drive = s.drive := (queueOverflowReply_keeps a s).2.2.2.2.1

@[simp] theorem queueOverflowReply_diag (a : Option Account) (s : State) : (queueOverflowReply a s).diag = s.diag := (queueOverflowReply_keeps a s).2.2.2.2.2.1

@[simp] theorem queueOverflowReply_thermal (a : Option Account) (s : State) : (queueOverflowReply a s).thermal = s.thermal := (queueOverflowReply_keeps a s).2.2.2.2.2.2.1

@[simp] theorem queueOverflowReply_supply (a : Option Account) (s : State) : (queueOverflowReply a s).supply = s.supply := (queueOverflowReply_keeps a s).2.2.2.2.2.2.2.1

@[simp] theorem queueOverflowReply_watch (a : Option Account) (s : State) : (queueOverflowReply a s).watch = s.watch := (queueOverflowReply_keeps a s).2.2.2.2.2.2.2.2.1

@[simp] theorem queueOverflowReply_snap (a : Option Account) (s : State) : (queueOverflowReply a s).snap = s.snap := (queueOverflowReply_keeps a s).2.2.2.2.2.2.2.2.2.1

@[simp] theorem queueOverflowReply_pins (a : Option Account) (s : State) : (queueOverflowReply a s).pins = s.pins := (queueOverflowReply_keeps a s).2.2.2.2.2.2.2.2.2.2.1

@[simp] theorem queueOverflowReply_freeUses (a : Option Account) (s : State) : (queueOverflowReply a s).freeUses = s.freeUses := (queueOverflowReply_keeps a s).2.2.2.2.2.2.2.2.2.2.2.1

@[simp] theorem queueOverflowReply_pending (a : Option Account) (s : State) : (queueOverflowReply a s).pending = s.pending := (queueOverflowReply_keeps a s).2.2.2.2.2.2.2.2.2.2.2.2

/-! ### sendFlowChange -/

theorem sendFlowChange_keeps (b : Flow) (s : State) :
    (sendFlowChange b s).tables = s.tables ∧ (sendFlowChange b s).parcels = s.parcels ∧ (sendFlowChange b s).levels = s.levels ∧ (sendFlowChange b s).drive = s.drive ∧ (sendFlowChange b s).diag = s.diag ∧ (sendFlowChange b s).thermal = s.thermal ∧ (sendFlowChange b s).supply = s.supply ∧ (sendFlowChange b s).watch = s.watch ∧ (sendFlowChange b s).ret = s.ret ∧ (sendFlowChange b s).snap = s.snap ∧ (sendFlowChange b s).pins = s.pins ∧ (sendFlowChange b s).freeUses = s.freeUses ∧ (sendFlowChange b s).pending = s.pending := by
  unfold sendFlowChange; (repeat' split) <;> simp

@[simp] theorem sendFlowChange_tables (b : Flow) (s : State) : (sendFlowChange b s).tables = s.tables := (sendFlowChange_keeps b s).1

@[simp] theorem sendFlowChange_parcels (b : Flow) (s : State) : (sendFlowChange b s).parcels = s.parcels := (sendFlowChange_keeps b s).2.1

@[simp] theorem sendFlowChange_levels (b : Flow) (s : State) : (sendFlowChange b s).levels = s.levels := (sendFlowChange_keeps b s).2.2.1

@[simp] theorem sendFlowChange_drive (b : Flow) (s : State) : (sendFlowChange b s).drive = s.drive := (sendFlowChange_keeps b s).2.2.2.1

@[simp] theorem sendFlowChange_diag (b : Flow) (s : State) : (sendFlowChange b s).diag = s.diag := (sendFlowChange_keeps b s).2.2.2.2.1

@[simp] theorem sendFlowChange_thermal (b : Flow) (s : State) : (sendFlowChange b s).thermal = s.thermal := (sendFlowChange_keeps b s).2.2.2.2.2.1

@[simp] theorem sendFlowChange_supply (b : Flow) (s : State) : (sendFlowChange b s).supply = s.supply := (sendFlowChange_keeps b s).2.2.2.2.2.2.1

@[simp] theorem sendFlowChange_watch (b : Flow) (s : State) : (sendFlowChange b s).watch = s.watch := (sendFlowChange_keeps b s).2.2.2.2.2.2.2.1

@[simp] theorem sendFlowChange_ret (b : Flow) (s : State) : (sendFlowChange b s).ret = s.ret := (sendFlowChange_keeps b s).2.2.2.2.2.2.2.2.1

@[simp] theorem sendFlowChange_snap (b : Flow) (s : State) : (sendFlowChange b s).snap = s.snap := (sendFlowChange_keeps b s).2.2.2.2.2.2.2.2.2.1

@[simp] theorem sendFlowChange_pins (b : Flow) (s : State) : (sendFlowChange b s).pins = s.pins := (sendFlowChange_keeps b s).2.2.2.2.2.2.2.2.2.2.1

@[simp] theorem sendFlowChange_freeUses (b : Flow) (s : State) : (sendFlowChange b s).freeUses = s.freeUses := (sendFlowChange_keeps b s).2.2.2.2.2.2.2.2.2.2.2.1

@[simp] theorem sendFlowChange_pending (b : Flow) (s : State) : (sendFlowChange b s).pending = s.pending := (sendFlowChange_keeps b s).2.2.2.2.2.2.2.2.2.2.2.2

/-! ### refreshLink -/

theorem refreshLink_keeps (s : State) :
    (refreshLink s).link = s.link ∧ (refreshLink s).tables = s.tables ∧ (refreshLink s).parcels = s.parcels ∧ (refreshLink s).levels = s.levels ∧ (refreshLink s).drive = s.drive ∧ (refreshLink s).diag = s.diag ∧ (refreshLink s).thermal = s.thermal ∧ (refreshLink s).supply = s.supply ∧ (refreshLink s).snap = s.snap ∧ (refreshLink s).pins = s.pins ∧ (refreshLink s).freeUses = s.freeUses ∧ (refreshLink s).pending = s.pending := by
  unfold refreshLink; (repeat' split) <;> simp

@[simp] theorem refreshLink_link (s : State) : (refreshLink s).link = s.link := (refreshLink_keeps s).1

@[simp] theorem refreshLink_tables (s : State) : (refreshLink s).tables = s.tables := (refreshLink_keeps s).2.1

@[simp] theorem refreshLink_parcels (s : State) : (refreshLink s).parcels = s.parcels := (refreshLink_keeps s).2.2.1

@[simp] theorem refreshLink_levels (s : State) : (refreshLink s).levels = s.levels := (refreshLink_keeps s).2.2.2.1

@[simp] theorem refreshLink_drive (s : State) : (refreshLink s).drive = s.drive := (refreshLink_keeps s).2.2.2.2.1

@[simp] theorem refreshLink_diag (s : State) : (refreshLink s).diag = s.diag := (refreshLink_keeps s).2.2.2.2.2.1

@[simp] theorem refreshLink_thermal (s : State) : (refreshLink s).thermal = s.thermal := (refreshLink_keeps s).2.2.2.2.2.2.1

@[simp] theorem refreshLink_supply (s : State) : (refreshLink s).supply = s.supply := (refreshLink_keeps s).2.2.2.2.2.2.2.1

@[simp] theorem refreshLink_snap (s : State) : (refreshLink s).snap = s.snap := (refreshLink_keeps s).2.2.2.2.2.2.2.2.1

@[simp] theorem refreshLink_pins (s : State) : (refreshLink s).pins = s.pins := (refreshLink_keeps s).2.2.2.2.2.2.2.2.2.1

@[simp] theorem refreshLink_freeUses (s : State) : (refreshLink s).freeUses = s.freeUses := (refreshLink_keeps s).2.2.2.2.2.2.2.2.2.2.1

@[simp] theorem refreshLink_pending (s : State) : (refreshLink s).pending = s.pending := (refreshLink_keeps s).2.2.2.2.2.2.2.2.2.2.2

/-! ### goodEffects -/

theorem goodEffects_keeps (sw : Sweep) (s : State) :
    (goodEffects sw s).tables = s.tables ∧ (goodEffects sw s).drive = s.drive ∧ (goodEffects sw s).diag = s.diag ∧ (goodEffects sw s).thermal = s.thermal ∧ (goodEffects sw s).supply = s.supply ∧ (goodEffects sw s).snap = s.snap ∧ (goodEffects sw s).pins = s.pins ∧ (goodEffects sw s).freeUses = s.freeUses ∧ (goodEffects sw s).pending = s.pending := by
  unfold goodEffects; (repeat' split) <;> simp

@[simp] theorem goodEffects_tables (sw : Sweep) (s : State) : (goodEffects sw s).tables = s.tables := (goodEffects_keeps sw s).1

@[simp] theorem goodEffects_drive (sw : Sweep) (s : State) : (goodEffects sw s).drive = s.drive := (goodEffects_keeps sw s).2.1

@[simp] theorem goodEffects_diag (sw : Sweep) (s : State) : (goodEffects sw s).diag = s.diag := (goodEffects_keeps sw s).2.2.1

@[simp] theorem goodEffects_thermal (sw : Sweep) (s : State) : (goodEffects sw s).thermal = s.thermal := (goodEffects_keeps sw s).2.2.2.1

@[simp] theorem goodEffects_supply (sw : Sweep) (s : State) : (goodEffects sw s).supply = s.supply := (goodEffects_keeps sw s).2.2.2.2.1

@[simp] theorem goodEffects_snap (sw : Sweep) (s : State) : (goodEffects sw s).snap = s.snap := (goodEffects_keeps sw s).2.2.2.2.2.1

@[simp] theorem goodEffects_pins (sw : Sweep) (s : State) : (goodEffects sw s).pins = s.pins := (goodEffects_keeps sw s).2.2.2.2.2.2.1

@[simp] theorem goodEffects_freeUses (sw : Sweep) (s : State) : (goodEffects sw s).freeUses = s.freeUses := (goodEffects_keeps sw s).2.2.2.2.2.2.2.1

@[simp] theorem goodEffects_pending (sw : Sweep) (s : State) : (goodEffects sw s).pending = s.pending := (goodEffects_keeps sw s).2.2.2.2.2.2.2.2

/-! ### goodSweepEnd -/

theorem goodSweepEnd_keeps (sw : Sweep) (s : State) :
    (goodSweepEnd sw s).tables = s.tables ∧ (goodSweepEnd sw s).drive = s.drive ∧ (goodSweepEnd sw s).thermal = s.thermal ∧ (goodSweepEnd sw s).supply = s.supply ∧ (goodSweepEnd sw s).snap = s.snap ∧ (goodSweepEnd sw s).pins = s.pins ∧ (goodSweepEnd sw s).pending = s.pending := by
  unfold goodSweepEnd; dsimp only; (repeat' split) <;> simp

@[simp] theorem goodSweepEnd_tables (sw : Sweep) (s : State) : (goodSweepEnd sw s).tables = s.tables := (goodSweepEnd_keeps sw s).1

@[simp] theorem goodSweepEnd_drive (sw : Sweep) (s : State) : (goodSweepEnd sw s).drive = s.drive := (goodSweepEnd_keeps sw s).2.1

@[simp] theorem goodSweepEnd_thermal (sw : Sweep) (s : State) : (goodSweepEnd sw s).thermal = s.thermal := (goodSweepEnd_keeps sw s).2.2.1

@[simp] theorem goodSweepEnd_supply (sw : Sweep) (s : State) : (goodSweepEnd sw s).supply = s.supply := (goodSweepEnd_keeps sw s).2.2.2.1

@[simp] theorem goodSweepEnd_snap (sw : Sweep) (s : State) : (goodSweepEnd sw s).snap = s.snap := (goodSweepEnd_keeps sw s).2.2.2.2.1

@[simp] theorem goodSweepEnd_pins (sw : Sweep) (s : State) : (goodSweepEnd sw s).pins = s.pins := (goodSweepEnd_keeps sw s).2.2.2.2.2.1

@[simp] theorem goodSweepEnd_pending (sw : Sweep) (s : State) : (goodSweepEnd sw s).pending = s.pending := (goodSweepEnd_keeps sw s).2.2.2.2.2.2

/-! ### startOnDi -/

theorem startOnDi_keeps (s : State) :
    (startOnDi s).tables = s.tables ∧ (startOnDi s).drive = s.drive ∧ (startOnDi s).diag = s.diag ∧ (startOnDi s).thermal = s.thermal ∧ (startOnDi s).supply = s.supply ∧ (startOnDi s).watch = s.watch ∧ (startOnDi s).ret = s.ret ∧ (startOnDi s).snap = s.snap ∧ (startOnDi s).pins = s.pins ∧ (startOnDi s).freeUses = s.freeUses ∧ (startOnDi s).pending = s.pending := by
  unfold startOnDi; (repeat' split) <;> simp

@[simp] theorem startOnDi_tables (s : State) : (startOnDi s).tables = s.tables := (startOnDi_keeps s).1

@[simp] theorem startOnDi_drive (s : State) : (startOnDi s).drive = s.drive := (startOnDi_keeps s).2.1

@[simp] theorem startOnDi_diag (s : State) : (startOnDi s).diag = s.diag := (startOnDi_keeps s).2.2.1

@[simp] theorem startOnDi_thermal (s : State) : (startOnDi s).thermal = s.thermal := (startOnDi_keeps s).2.2.2.1

@[simp] theorem startOnDi_supply (s : State) : (startOnDi s).supply = s.supply := (startOnDi_keeps s).2.2.2.2.1

@[simp] theorem startOnDi_watch (s : State) : (startOnDi s).watch = s.watch := (startOnDi_keeps s).2.2.2.2.2.1

@[simp] theorem startOnDi_ret (s : State) : (startOnDi s).ret = s.ret := (startOnDi_keeps s).2.2.2.2.2.2.1

@[simp] theorem startOnDi_snap (s : State) : (startOnDi s).snap = s.snap := (startOnDi_keeps s).2.2.2.2.2.2.2.1

@[simp] theorem startOnDi_pins (s : State) : (startOnDi s).pins = s.pins := (startOnDi_keeps s).2.2.2.2.2.2.2.2.1

@[simp] theorem startOnDi_freeUses (s : State) : (startOnDi s).freeUses = s.freeUses := (startOnDi_keeps s).2.2.2.2.2.2.2.2.2.1

@[simp] theorem startOnDi_pending (s : State) : (startOnDi s).pending = s.pending := (startOnDi_keeps s).2.2.2.2.2.2.2.2.2.2

/-! ### acceptHeader -/

theorem acceptHeader_keeps (k : SweepKind) (w0 w1 w2 : Word) (s : State) :
    (acceptHeader k w0 w1 w2 s).drive = s.drive ∧ (acceptHeader k w0 w1 w2 s).diag = s.diag ∧ (acceptHeader k w0 w1 w2 s).thermal = s.thermal ∧ (acceptHeader k w0 w1 w2 s).supply = s.supply ∧ (acceptHeader k w0 w1 w2 s).watch = s.watch ∧ (acceptHeader k w0 w1 w2 s).ret = s.ret ∧ (acceptHeader k w0 w1 w2 s).snap = s.snap ∧ (acceptHeader k w0 w1 w2 s).pins = s.pins ∧ (acceptHeader k w0 w1 w2 s).freeUses = s.freeUses ∧ (acceptHeader k w0 w1 w2 s).pending = s.pending := by
  unfold acceptHeader; simp

@[simp] theorem acceptHeader_drive (k : SweepKind) (w0 w1 w2 : Word) (s : State) : (acceptHeader k w0 w1 w2 s).drive = s.drive := (acceptHeader_keeps k w0 w1 w2 s).1

@[simp] theorem acceptHeader_diag (k : SweepKind) (w0 w1 w2 : Word) (s : State) : (acceptHeader k w0 w1 w2 s).diag = s.diag := (acceptHeader_keeps k w0 w1 w2 s).2.1

@[simp] theorem acceptHeader_thermal (k : SweepKind) (w0 w1 w2 : Word) (s : State) : (acceptHeader k w0 w1 w2 s).thermal = s.thermal := (acceptHeader_keeps k w0 w1 w2 s).2.2.1

@[simp] theorem acceptHeader_supply (k : SweepKind) (w0 w1 w2 : Word) (s : State) : (acceptHeader k w0 w1 w2 s).supply = s.supply := (acceptHeader_keeps k w0 w1 w2 s).2.2.2.1

@[simp] theorem acceptHeader_watch (k : SweepKind) (w0 w1 w2 : Word) (s : State) : (acceptHeader k w0 w1 w2 s).watch = s.watch := (acceptHeader_keeps k w0 w1 w2 s).2.2.2.2.1

@[simp] theorem acceptHeader_ret (k : SweepKind) (w0 w1 w2 : Word) (s : State) : (acceptHeader k w0 w1 w2 s).ret = s.ret := (acceptHeader_keeps k w0 w1 w2 s).2.2.2.2.2.1

@[simp] theorem acceptHeader_snap (k : SweepKind) (w0 w1 w2 : Word) (s : State) : (acceptHeader k w0 w1 w2 s).snap = s.snap := (acceptHeader_keeps k w0 w1 w2 s).2.2.2.2.2.2.1

@[simp] theorem acceptHeader_pins (k : SweepKind) (w0 w1 w2 : Word) (s : State) : (acceptHeader k w0 w1 w2 s).pins = s.pins := (acceptHeader_keeps k w0 w1 w2 s).2.2.2.2.2.2.2.1

@[simp] theorem acceptHeader_freeUses (k : SweepKind) (w0 w1 w2 : Word) (s : State) : (acceptHeader k w0 w1 w2 s).freeUses = s.freeUses := (acceptHeader_keeps k w0 w1 w2 s).2.2.2.2.2.2.2.2.1

@[simp] theorem acceptHeader_pending (k : SweepKind) (w0 w1 w2 : Word) (s : State) : (acceptHeader k w0 w1 w2 s).pending = s.pending := (acceptHeader_keeps k w0 w1 w2 s).2.2.2.2.2.2.2.2.2

/-! ### headerWord -/

theorem headerWord_keeps (got : List Word) (w : Word) (s : State) :
    (headerWord got w s).drive = s.drive ∧ (headerWord got w s).diag = s.diag ∧ (headerWord got w s).thermal = s.thermal ∧ (headerWord got w s).supply = s.supply ∧ (headerWord got w s).watch = s.watch ∧ (headerWord got w s).ret = s.ret ∧ (headerWord got w s).snap = s.snap ∧ (headerWord got w s).pins = s.pins ∧ (headerWord got w s).freeUses = s.freeUses ∧ (headerWord got w s).pending = s.pending := by
  unfold headerWord; (repeat' split) <;> simp

@[simp] theorem headerWord_drive (got : List Word) (w : Word) (s : State) : (headerWord got w s).drive = s.drive := (headerWord_keeps got w s).1

@[simp] theorem headerWord_diag (got : List Word) (w : Word) (s : State) : (headerWord got w s).diag = s.diag := (headerWord_keeps got w s).2.1

@[simp] theorem headerWord_thermal (got : List Word) (w : Word) (s : State) : (headerWord got w s).thermal = s.thermal := (headerWord_keeps got w s).2.2.1

@[simp] theorem headerWord_supply (got : List Word) (w : Word) (s : State) : (headerWord got w s).supply = s.supply := (headerWord_keeps got w s).2.2.2.1

@[simp] theorem headerWord_watch (got : List Word) (w : Word) (s : State) : (headerWord got w s).watch = s.watch := (headerWord_keeps got w s).2.2.2.2.1

@[simp] theorem headerWord_ret (got : List Word) (w : Word) (s : State) : (headerWord got w s).ret = s.ret := (headerWord_keeps got w s).2.2.2.2.2.1

@[simp] theorem headerWord_snap (got : List Word) (w : Word) (s : State) : (headerWord got w s).snap = s.snap := (headerWord_keeps got w s).2.2.2.2.2.2.1

@[simp] theorem headerWord_pins (got : List Word) (w : Word) (s : State) : (headerWord got w s).pins = s.pins := (headerWord_keeps got w s).2.2.2.2.2.2.2.1

@[simp] theorem headerWord_freeUses (got : List Word) (w : Word) (s : State) : (headerWord got w s).freeUses = s.freeUses := (headerWord_keeps got w s).2.2.2.2.2.2.2.2.1

@[simp] theorem headerWord_pending (got : List Word) (w : Word) (s : State) : (headerWord got w s).pending = s.pending := (headerWord_keeps got w s).2.2.2.2.2.2.2.2.2

/-! ### dataWord -/

theorem dataWord_keeps (sw : Sweep) (k : Nat) (w : Word) (s : State) :
    (dataWord sw k w s).tables = s.tables ∧ (dataWord sw k w s).parcels = s.parcels ∧ (dataWord sw k w s).drive = s.drive ∧ (dataWord sw k w s).diag = s.diag ∧ (dataWord sw k w s).thermal = s.thermal ∧ (dataWord sw k w s).supply = s.supply ∧ (dataWord sw k w s).watch = s.watch ∧ (dataWord sw k w s).ret = s.ret ∧ (dataWord sw k w s).snap = s.snap ∧ (dataWord sw k w s).pins = s.pins ∧ (dataWord sw k w s).freeUses = s.freeUses ∧ (dataWord sw k w s).pending = s.pending := by
  unfold dataWord; (repeat' split) <;> simp

@[simp] theorem dataWord_tables (sw : Sweep) (k : Nat) (w : Word) (s : State) : (dataWord sw k w s).tables = s.tables := (dataWord_keeps sw k w s).1

@[simp] theorem dataWord_parcels (sw : Sweep) (k : Nat) (w : Word) (s : State) : (dataWord sw k w s).parcels = s.parcels := (dataWord_keeps sw k w s).2.1

@[simp] theorem dataWord_drive (sw : Sweep) (k : Nat) (w : Word) (s : State) : (dataWord sw k w s).drive = s.drive := (dataWord_keeps sw k w s).2.2.1

@[simp] theorem dataWord_diag (sw : Sweep) (k : Nat) (w : Word) (s : State) : (dataWord sw k w s).diag = s.diag := (dataWord_keeps sw k w s).2.2.2.1

@[simp] theorem dataWord_thermal (sw : Sweep) (k : Nat) (w : Word) (s : State) : (dataWord sw k w s).thermal = s.thermal := (dataWord_keeps sw k w s).2.2.2.2.1

@[simp] theorem dataWord_supply (sw : Sweep) (k : Nat) (w : Word) (s : State) : (dataWord sw k w s).supply = s.supply := (dataWord_keeps sw k w s).2.2.2.2.2.1

@[simp] theorem dataWord_watch (sw : Sweep) (k : Nat) (w : Word) (s : State) : (dataWord sw k w s).watch = s.watch := (dataWord_keeps sw k w s).2.2.2.2.2.2.1

@[simp] theorem dataWord_ret (sw : Sweep) (k : Nat) (w : Word) (s : State) : (dataWord sw k w s).ret = s.ret := (dataWord_keeps sw k w s).2.2.2.2.2.2.2.1

@[simp] theorem dataWord_snap (sw : Sweep) (k : Nat) (w : Word) (s : State) : (dataWord sw k w s).snap = s.snap := (dataWord_keeps sw k w s).2.2.2.2.2.2.2.2.1

@[simp] theorem dataWord_pins (sw : Sweep) (k : Nat) (w : Word) (s : State) : (dataWord sw k w s).pins = s.pins := (dataWord_keeps sw k w s).2.2.2.2.2.2.2.2.2.1

@[simp] theorem dataWord_freeUses (sw : Sweep) (k : Nat) (w : Word) (s : State) : (dataWord sw k w s).freeUses = s.freeUses := (dataWord_keeps sw k w s).2.2.2.2.2.2.2.2.2.2.1

@[simp] theorem dataWord_pending (sw : Sweep) (k : Nat) (w : Word) (s : State) : (dataWord sw k w s).pending = s.pending := (dataWord_keeps sw k w s).2.2.2.2.2.2.2.2.2.2.2

/-! ### enumWord -/

theorem enumWord_keeps (sw : Sweep) (k : Nat) (w : Word) (s : State) :
    (enumWord sw k w s).tables = s.tables ∧ (enumWord sw k w s).parcels = s.parcels ∧ (enumWord sw k w s).levels = s.levels ∧ (enumWord sw k w s).drive = s.drive ∧ (enumWord sw k w s).diag = s.diag ∧ (enumWord sw k w s).thermal = s.thermal ∧ (enumWord sw k w s).supply = s.supply ∧ (enumWord sw k w s).watch = s.watch ∧ (enumWord sw k w s).ret = s.ret ∧ (enumWord sw k w s).snap = s.snap ∧ (enumWord sw k w s).pins = s.pins ∧ (enumWord sw k w s).freeUses = s.freeUses ∧ (enumWord sw k w s).pending = s.pending := by
  unfold enumWord; simp

@[simp] theorem enumWord_tables (sw : Sweep) (k : Nat) (w : Word) (s : State) : (enumWord sw k w s).tables = s.tables := (enumWord_keeps sw k w s).1

@[simp] theorem enumWord_parcels (sw : Sweep) (k : Nat) (w : Word) (s : State) : (enumWord sw k w s).parcels = s.parcels := (enumWord_keeps sw k w s).2.1

@[simp] theorem enumWord_levels (sw : Sweep) (k : Nat) (w : Word) (s : State) : (enumWord sw k w s).levels = s.levels := (enumWord_keeps sw k w s).2.2.1

@[simp] theorem enumWord_drive (sw : Sweep) (k : Nat) (w : Word) (s : State) : (enumWord sw k w s).drive = s.drive := (enumWord_keeps sw k w s).2.2.2.1

@[simp] theorem enumWord_diag (sw : Sweep) (k : Nat) (w : Word) (s : State) : (enumWord sw k w s).diag = s.diag := (enumWord_keeps sw k w s).2.2.2.2.1

@[simp] theorem enumWord_thermal (sw : Sweep) (k : Nat) (w : Word) (s : State) : (enumWord sw k w s).thermal = s.thermal := (enumWord_keeps sw k w s).2.2.2.2.2.1

@[simp] theorem enumWord_supply (sw : Sweep) (k : Nat) (w : Word) (s : State) : (enumWord sw k w s).supply = s.supply := (enumWord_keeps sw k w s).2.2.2.2.2.2.1

@[simp] theorem enumWord_watch (sw : Sweep) (k : Nat) (w : Word) (s : State) : (enumWord sw k w s).watch = s.watch := (enumWord_keeps sw k w s).2.2.2.2.2.2.2.1

@[simp] theorem enumWord_ret (sw : Sweep) (k : Nat) (w : Word) (s : State) : (enumWord sw k w s).ret = s.ret := (enumWord_keeps sw k w s).2.2.2.2.2.2.2.2.1

@[simp] theorem enumWord_snap (sw : Sweep) (k : Nat) (w : Word) (s : State) : (enumWord sw k w s).snap = s.snap := (enumWord_keeps sw k w s).2.2.2.2.2.2.2.2.2.1

@[simp] theorem enumWord_pins (sw : Sweep) (k : Nat) (w : Word) (s : State) : (enumWord sw k w s).pins = s.pins := (enumWord_keeps sw k w s).2.2.2.2.2.2.2.2.2.2.1

@[simp] theorem enumWord_freeUses (sw : Sweep) (k : Nat) (w : Word) (s : State) : (enumWord sw k w s).freeUses = s.freeUses := (enumWord_keeps sw k w s).2.2.2.2.2.2.2.2.2.2.2.1

@[simp] theorem enumWord_pending (sw : Sweep) (k : Nat) (w : Word) (s : State) : (enumWord sw k w s).pending = s.pending := (enumWord_keeps sw k w s).2.2.2.2.2.2.2.2.2.2.2.2

/-! ### payloadWord -/

theorem payloadWord_keeps (sw : Sweep) (k : Nat) (w : Word) (s : State) :
    (payloadWord sw k w s).tables = s.tables ∧ (payloadWord sw k w s).parcels = s.parcels ∧ (payloadWord sw k w s).drive = s.drive ∧ (payloadWord sw k w s).diag = s.diag ∧ (payloadWord sw k w s).thermal = s.thermal ∧ (payloadWord sw k w s).supply = s.supply ∧ (payloadWord sw k w s).watch = s.watch ∧ (payloadWord sw k w s).ret = s.ret ∧ (payloadWord sw k w s).snap = s.snap ∧ (payloadWord sw k w s).pins = s.pins ∧ (payloadWord sw k w s).freeUses = s.freeUses ∧ (payloadWord sw k w s).pending = s.pending := by
  unfold payloadWord; (repeat' split) <;> simp

@[simp] theorem payloadWord_tables (sw : Sweep) (k : Nat) (w : Word) (s : State) : (payloadWord sw k w s).tables = s.tables := (payloadWord_keeps sw k w s).1

@[simp] theorem payloadWord_parcels (sw : Sweep) (k : Nat) (w : Word) (s : State) : (payloadWord sw k w s).parcels = s.parcels := (payloadWord_keeps sw k w s).2.1

@[simp] theorem payloadWord_drive (sw : Sweep) (k : Nat) (w : Word) (s : State) : (payloadWord sw k w s).drive = s.drive := (payloadWord_keeps sw k w s).2.2.1

@[simp] theorem payloadWord_diag (sw : Sweep) (k : Nat) (w : Word) (s : State) : (payloadWord sw k w s).diag = s.diag := (payloadWord_keeps sw k w s).2.2.2.1

@[simp] theorem payloadWord_thermal (sw : Sweep) (k : Nat) (w : Word) (s : State) : (payloadWord sw k w s).thermal = s.thermal := (payloadWord_keeps sw k w s).2.2.2.2.1

@[simp] theorem payloadWord_supply (sw : Sweep) (k : Nat) (w : Word) (s : State) : (payloadWord sw k w s).supply = s.supply := (payloadWord_keeps sw k w s).2.2.2.2.2.1

@[simp] theorem payloadWord_watch (sw : Sweep) (k : Nat) (w : Word) (s : State) : (payloadWord sw k w s).watch = s.watch := (payloadWord_keeps sw k w s).2.2.2.2.2.2.1

@[simp] theorem payloadWord_ret (sw : Sweep) (k : Nat) (w : Word) (s : State) : (payloadWord sw k w s).ret = s.ret := (payloadWord_keeps sw k w s).2.2.2.2.2.2.2.1

@[simp] theorem payloadWord_snap (sw : Sweep) (k : Nat) (w : Word) (s : State) : (payloadWord sw k w s).snap = s.snap := (payloadWord_keeps sw k w s).2.2.2.2.2.2.2.2.1

@[simp] theorem payloadWord_pins (sw : Sweep) (k : Nat) (w : Word) (s : State) : (payloadWord sw k w s).pins = s.pins := (payloadWord_keeps sw k w s).2.2.2.2.2.2.2.2.2.1

@[simp] theorem payloadWord_freeUses (sw : Sweep) (k : Nat) (w : Word) (s : State) : (payloadWord sw k w s).freeUses = s.freeUses := (payloadWord_keeps sw k w s).2.2.2.2.2.2.2.2.2.2.1

@[simp] theorem payloadWord_pending (sw : Sweep) (k : Nat) (w : Word) (s : State) : (payloadWord sw k w s).pending = s.pending := (payloadWord_keeps sw k w s).2.2.2.2.2.2.2.2.2.2.2

/-! ### parcelWord -/

theorem parcelWord_keeps (sw : Sweep) (left : Nat) (pos : ParcelPos) (w : Word) (s : State) :
    (parcelWord sw left pos w s).tables = s.tables ∧ (parcelWord sw left pos w s).levels = s.levels ∧ (parcelWord sw left pos w s).drive = s.drive ∧ (parcelWord sw left pos w s).diag = s.diag ∧ (parcelWord sw left pos w s).thermal = s.thermal ∧ (parcelWord sw left pos w s).supply = s.supply ∧ (parcelWord sw left pos w s).watch = s.watch ∧ (parcelWord sw left pos w s).ret = s.ret ∧ (parcelWord sw left pos w s).snap = s.snap ∧ (parcelWord sw left pos w s).pins = s.pins ∧ (parcelWord sw left pos w s).freeUses = s.freeUses ∧ (parcelWord sw left pos w s).pending = s.pending := by
  unfold parcelWord; (repeat' split) <;> simp

@[simp] theorem parcelWord_tables (sw : Sweep) (left : Nat) (pos : ParcelPos) (w : Word) (s : State) : (parcelWord sw left pos w s).tables = s.tables := (parcelWord_keeps sw left pos w s).1

@[simp] theorem parcelWord_levels (sw : Sweep) (left : Nat) (pos : ParcelPos) (w : Word) (s : State) : (parcelWord sw left pos w s).levels = s.levels := (parcelWord_keeps sw left pos w s).2.1

@[simp] theorem parcelWord_drive (sw : Sweep) (left : Nat) (pos : ParcelPos) (w : Word) (s : State) : (parcelWord sw left pos w s).drive = s.drive := (parcelWord_keeps sw left pos w s).2.2.1

@[simp] theorem parcelWord_diag (sw : Sweep) (left : Nat) (pos : ParcelPos) (w : Word) (s : State) : (parcelWord sw left pos w s).diag = s.diag := (parcelWord_keeps sw left pos w s).2.2.2.1

@[simp] theorem parcelWord_thermal (sw : Sweep) (left : Nat) (pos : ParcelPos) (w : Word) (s : State) : (parcelWord sw left pos w s).thermal = s.thermal := (parcelWord_keeps sw left pos w s).2.2.2.2.1

@[simp] theorem parcelWord_supply (sw : Sweep) (left : Nat) (pos : ParcelPos) (w : Word) (s : State) : (parcelWord sw left pos w s).supply = s.supply := (parcelWord_keeps sw left pos w s).2.2.2.2.2.1

@[simp] theorem parcelWord_watch (sw : Sweep) (left : Nat) (pos : ParcelPos) (w : Word) (s : State) : (parcelWord sw left pos w s).watch = s.watch := (parcelWord_keeps sw left pos w s).2.2.2.2.2.2.1

@[simp] theorem parcelWord_ret (sw : Sweep) (left : Nat) (pos : ParcelPos) (w : Word) (s : State) : (parcelWord sw left pos w s).ret = s.ret := (parcelWord_keeps sw left pos w s).2.2.2.2.2.2.2.1

@[simp] theorem parcelWord_snap (sw : Sweep) (left : Nat) (pos : ParcelPos) (w : Word) (s : State) : (parcelWord sw left pos w s).snap = s.snap := (parcelWord_keeps sw left pos w s).2.2.2.2.2.2.2.2.1

@[simp] theorem parcelWord_pins (sw : Sweep) (left : Nat) (pos : ParcelPos) (w : Word) (s : State) : (parcelWord sw left pos w s).pins = s.pins := (parcelWord_keeps sw left pos w s).2.2.2.2.2.2.2.2.2.1

@[simp] theorem parcelWord_freeUses (sw : Sweep) (left : Nat) (pos : ParcelPos) (w : Word) (s : State) : (parcelWord sw left pos w s).freeUses = s.freeUses := (parcelWord_keeps sw left pos w s).2.2.2.2.2.2.2.2.2.2.1

@[simp] theorem parcelWord_pending (sw : Sweep) (left : Nat) (pos : ParcelPos) (w : Word) (s : State) : (parcelWord sw left pos w s).pending = s.pending := (parcelWord_keeps sw left pos w s).2.2.2.2.2.2.2.2.2.2.2

/-! ### trailerWord -/

theorem trailerWord_keeps (sw : Sweep) (c : Option Bool) (w : Word) (s : State) :
    (trailerWord sw c w s).tables = s.tables ∧ (trailerWord sw c w s).parcels = s.parcels ∧ (trailerWord sw c w s).levels = s.levels ∧ (trailerWord sw c w s).drive = s.drive ∧ (trailerWord sw c w s).diag = s.diag ∧ (trailerWord sw c w s).thermal = s.thermal ∧ (trailerWord sw c w s).supply = s.supply ∧ (trailerWord sw c w s).watch = s.watch ∧ (trailerWord sw c w s).ret = s.ret ∧ (trailerWord sw c w s).snap = s.snap ∧ (trailerWord sw c w s).pins = s.pins ∧ (trailerWord sw c w s).freeUses = s.freeUses ∧ (trailerWord sw c w s).pending = s.pending := by
  unfold trailerWord; (repeat' split) <;> simp

@[simp] theorem trailerWord_tables (sw : Sweep) (c : Option Bool) (w : Word) (s : State) : (trailerWord sw c w s).tables = s.tables := (trailerWord_keeps sw c w s).1

@[simp] theorem trailerWord_parcels (sw : Sweep) (c : Option Bool) (w : Word) (s : State) : (trailerWord sw c w s).parcels = s.parcels := (trailerWord_keeps sw c w s).2.1

@[simp] theorem trailerWord_levels (sw : Sweep) (c : Option Bool) (w : Word) (s : State) : (trailerWord sw c w s).levels = s.levels := (trailerWord_keeps sw c w s).2.2.1

@[simp] theorem trailerWord_drive (sw : Sweep) (c : Option Bool) (w : Word) (s : State) : (trailerWord sw c w s).drive = s.drive := (trailerWord_keeps sw c w s).2.2.2.1

@[simp] theorem trailerWord_diag (sw : Sweep) (c : Option Bool) (w : Word) (s : State) : (trailerWord sw c w s).diag = s.diag := (trailerWord_keeps sw c w s).2.2.2.2.1

@[simp] theorem trailerWord_thermal (sw : Sweep) (c : Option Bool) (w : Word) (s : State) : (trailerWord sw c w s).thermal = s.thermal := (trailerWord_keeps sw c w s).2.2.2.2.2.1

@[simp] theorem trailerWord_supply (sw : Sweep) (c : Option Bool) (w : Word) (s : State) : (trailerWord sw c w s).supply = s.supply := (trailerWord_keeps sw c w s).2.2.2.2.2.2.1

@[simp] theorem trailerWord_watch (sw : Sweep) (c : Option Bool) (w : Word) (s : State) : (trailerWord sw c w s).watch = s.watch := (trailerWord_keeps sw c w s).2.2.2.2.2.2.2.1

@[simp] theorem trailerWord_ret (sw : Sweep) (c : Option Bool) (w : Word) (s : State) : (trailerWord sw c w s).ret = s.ret := (trailerWord_keeps sw c w s).2.2.2.2.2.2.2.2.1

@[simp] theorem trailerWord_snap (sw : Sweep) (c : Option Bool) (w : Word) (s : State) : (trailerWord sw c w s).snap = s.snap := (trailerWord_keeps sw c w s).2.2.2.2.2.2.2.2.2.1

@[simp] theorem trailerWord_pins (sw : Sweep) (c : Option Bool) (w : Word) (s : State) : (trailerWord sw c w s).pins = s.pins := (trailerWord_keeps sw c w s).2.2.2.2.2.2.2.2.2.2.1

@[simp] theorem trailerWord_freeUses (sw : Sweep) (c : Option Bool) (w : Word) (s : State) : (trailerWord sw c w s).freeUses = s.freeUses := (trailerWord_keeps sw c w s).2.2.2.2.2.2.2.2.2.2.2.1

@[simp] theorem trailerWord_pending (sw : Sweep) (c : Option Bool) (w : Word) (s : State) : (trailerWord sw c w s).pending = s.pending := (trailerWord_keeps sw c w s).2.2.2.2.2.2.2.2.2.2.2.2

/-! ### wordOnDi -/

theorem wordOnDi_keeps (w : Word) (s : State) :
    (wordOnDi w s).drive = s.drive ∧ (wordOnDi w s).diag = s.diag ∧ (wordOnDi w s).thermal = s.thermal ∧ (wordOnDi w s).supply = s.supply ∧ (wordOnDi w s).watch = s.watch ∧ (wordOnDi w s).ret = s.ret ∧ (wordOnDi w s).snap = s.snap ∧ (wordOnDi w s).pins = s.pins ∧ (wordOnDi w s).freeUses = s.freeUses ∧ (wordOnDi w s).pending = s.pending := by
  unfold wordOnDi; (repeat' split) <;> simp

@[simp] theorem wordOnDi_drive (w : Word) (s : State) : (wordOnDi w s).drive = s.drive := (wordOnDi_keeps w s).1

@[simp] theorem wordOnDi_diag (w : Word) (s : State) : (wordOnDi w s).diag = s.diag := (wordOnDi_keeps w s).2.1

@[simp] theorem wordOnDi_thermal (w : Word) (s : State) : (wordOnDi w s).thermal = s.thermal := (wordOnDi_keeps w s).2.2.1

@[simp] theorem wordOnDi_supply (w : Word) (s : State) : (wordOnDi w s).supply = s.supply := (wordOnDi_keeps w s).2.2.2.1

@[simp] theorem wordOnDi_watch (w : Word) (s : State) : (wordOnDi w s).watch = s.watch := (wordOnDi_keeps w s).2.2.2.2.1

@[simp] theorem wordOnDi_ret (w : Word) (s : State) : (wordOnDi w s).ret = s.ret := (wordOnDi_keeps w s).2.2.2.2.2.1

@[simp] theorem wordOnDi_snap (w : Word) (s : State) : (wordOnDi w s).snap = s.snap := (wordOnDi_keeps w s).2.2.2.2.2.2.1

@[simp] theorem wordOnDi_pins (w : Word) (s : State) : (wordOnDi w s).pins = s.pins := (wordOnDi_keeps w s).2.2.2.2.2.2.2.1

@[simp] theorem wordOnDi_freeUses (w : Word) (s : State) : (wordOnDi w s).freeUses = s.freeUses := (wordOnDi_keeps w s).2.2.2.2.2.2.2.2.1

@[simp] theorem wordOnDi_pending (w : Word) (s : State) : (wordOnDi w s).pending = s.pending := (wordOnDi_keeps w s).2.2.2.2.2.2.2.2.2

/-! ### closeSweep -/

theorem closeSweep_keeps (sw : Sweep) (c m : Bool) (s : State) :
    (closeSweep sw c m s).tables = s.tables ∧ (closeSweep sw c m s).drive = s.drive ∧ (closeSweep sw c m s).thermal = s.thermal ∧ (closeSweep sw c m s).supply = s.supply ∧ (closeSweep sw c m s).snap = s.snap ∧ (closeSweep sw c m s).pins = s.pins ∧ (closeSweep sw c m s).pending = s.pending := by
  unfold closeSweep; (repeat' split) <;> simp

@[simp] theorem closeSweep_tables (sw : Sweep) (c m : Bool) (s : State) : (closeSweep sw c m s).tables = s.tables := (closeSweep_keeps sw c m s).1

@[simp] theorem closeSweep_drive (sw : Sweep) (c m : Bool) (s : State) : (closeSweep sw c m s).drive = s.drive := (closeSweep_keeps sw c m s).2.1

@[simp] theorem closeSweep_thermal (sw : Sweep) (c m : Bool) (s : State) : (closeSweep sw c m s).thermal = s.thermal := (closeSweep_keeps sw c m s).2.2.1

@[simp] theorem closeSweep_supply (sw : Sweep) (c m : Bool) (s : State) : (closeSweep sw c m s).supply = s.supply := (closeSweep_keeps sw c m s).2.2.2.1

@[simp] theorem closeSweep_snap (sw : Sweep) (c m : Bool) (s : State) : (closeSweep sw c m s).snap = s.snap := (closeSweep_keeps sw c m s).2.2.2.2.1

@[simp] theorem closeSweep_pins (sw : Sweep) (c m : Bool) (s : State) : (closeSweep sw c m s).pins = s.pins := (closeSweep_keeps sw c m s).2.2.2.2.2.1

@[simp] theorem closeSweep_pending (sw : Sweep) (c m : Bool) (s : State) : (closeSweep sw c m s).pending = s.pending := (closeSweep_keeps sw c m s).2.2.2.2.2.2

/-! ### endOnDi -/

theorem endOnDi_keeps (s : State) :
    (endOnDi s).tables = s.tables ∧ (endOnDi s).drive = s.drive ∧ (endOnDi s).thermal = s.thermal ∧ (endOnDi s).supply = s.supply ∧ (endOnDi s).snap = s.snap ∧ (endOnDi s).pins = s.pins ∧ (endOnDi s).pending = s.pending := by
  unfold endOnDi; (repeat' split) <;> simp

@[simp] theorem endOnDi_tables (s : State) : (endOnDi s).tables = s.tables := (endOnDi_keeps s).1

@[simp] theorem endOnDi_drive (s : State) : (endOnDi s).drive = s.drive := (endOnDi_keeps s).2.1

@[simp] theorem endOnDi_thermal (s : State) : (endOnDi s).thermal = s.thermal := (endOnDi_keeps s).2.2.1

@[simp] theorem endOnDi_supply (s : State) : (endOnDi s).supply = s.supply := (endOnDi_keeps s).2.2.2.1

@[simp] theorem endOnDi_snap (s : State) : (endOnDi s).snap = s.snap := (endOnDi_keeps s).2.2.2.2.1

@[simp] theorem endOnDi_pins (s : State) : (endOnDi s).pins = s.pins := (endOnDi_keeps s).2.2.2.2.2.1

@[simp] theorem endOnDi_pending (s : State) : (endOnDi s).pending = s.pending := (endOnDi_keeps s).2.2.2.2.2.2

/-! ### repeatFlow -/

theorem repeatFlow_keeps (s : State) :
    (repeatFlow s).tables = s.tables ∧ (repeatFlow s).parcels = s.parcels ∧ (repeatFlow s).levels = s.levels ∧ (repeatFlow s).drive = s.drive ∧ (repeatFlow s).diag = s.diag ∧ (repeatFlow s).thermal = s.thermal ∧ (repeatFlow s).supply = s.supply ∧ (repeatFlow s).watch = s.watch ∧ (repeatFlow s).ret = s.ret ∧ (repeatFlow s).snap = s.snap ∧ (repeatFlow s).pins = s.pins ∧ (repeatFlow s).freeUses = s.freeUses ∧ (repeatFlow s).pending = s.pending := by
  unfold repeatFlow; (repeat' split) <;> simp

@[simp] theorem repeatFlow_tables (s : State) : (repeatFlow s).tables = s.tables := (repeatFlow_keeps s).1

@[simp] theorem repeatFlow_parcels (s : State) : (repeatFlow s).parcels = s.parcels := (repeatFlow_keeps s).2.1

@[simp] theorem repeatFlow_levels (s : State) : (repeatFlow s).levels = s.levels := (repeatFlow_keeps s).2.2.1

@[simp] theorem repeatFlow_drive (s : State) : (repeatFlow s).drive = s.drive := (repeatFlow_keeps s).2.2.2.1

@[simp] theorem repeatFlow_diag (s : State) : (repeatFlow s).diag = s.diag := (repeatFlow_keeps s).2.2.2.2.1

@[simp] theorem repeatFlow_thermal (s : State) : (repeatFlow s).thermal = s.thermal := (repeatFlow_keeps s).2.2.2.2.2.1

@[simp] theorem repeatFlow_supply (s : State) : (repeatFlow s).supply = s.supply := (repeatFlow_keeps s).2.2.2.2.2.2.1

@[simp] theorem repeatFlow_watch (s : State) : (repeatFlow s).watch = s.watch := (repeatFlow_keeps s).2.2.2.2.2.2.2.1

@[simp] theorem repeatFlow_ret (s : State) : (repeatFlow s).ret = s.ret := (repeatFlow_keeps s).2.2.2.2.2.2.2.2.1

@[simp] theorem repeatFlow_snap (s : State) : (repeatFlow s).snap = s.snap := (repeatFlow_keeps s).2.2.2.2.2.2.2.2.2.1

@[simp] theorem repeatFlow_pins (s : State) : (repeatFlow s).pins = s.pins := (repeatFlow_keeps s).2.2.2.2.2.2.2.2.2.2.1

@[simp] theorem repeatFlow_freeUses (s : State) : (repeatFlow s).freeUses = s.freeUses := (repeatFlow_keeps s).2.2.2.2.2.2.2.2.2.2.2.1

@[simp] theorem repeatFlow_pending (s : State) : (repeatFlow s).pending = s.pending := (repeatFlow_keeps s).2.2.2.2.2.2.2.2.2.2.2.2

/-! ### reply -/

theorem reply_keeps (p : Parcel) (c : ResultCode) (r : Bool) (b : List Word) (s : State) :
    (reply p c r b s).link = s.link ∧ (reply p c r b s).tables = s.tables ∧ (reply p c r b s).parcels = s.parcels ∧ (reply p c r b s).levels = s.levels ∧ (reply p c r b s).drive = s.drive ∧ (reply p c r b s).diag = s.diag ∧ (reply p c r b s).thermal = s.thermal ∧ (reply p c r b s).supply = s.supply ∧ (reply p c r b s).watch = s.watch ∧ (reply p c r b s).snap = s.snap ∧ (reply p c r b s).pins = s.pins ∧ (reply p c r b s).freeUses = s.freeUses ∧ (reply p c r b s).pending = s.pending := by
  unfold reply; simp

@[simp] theorem reply_link (p : Parcel) (c : ResultCode) (r : Bool) (b : List Word) (s : State) : (reply p c r b s).link = s.link := (reply_keeps p c r b s).1

@[simp] theorem reply_tables (p : Parcel) (c : ResultCode) (r : Bool) (b : List Word) (s : State) : (reply p c r b s).tables = s.tables := (reply_keeps p c r b s).2.1

@[simp] theorem reply_parcels (p : Parcel) (c : ResultCode) (r : Bool) (b : List Word) (s : State) : (reply p c r b s).parcels = s.parcels := (reply_keeps p c r b s).2.2.1

@[simp] theorem reply_levels (p : Parcel) (c : ResultCode) (r : Bool) (b : List Word) (s : State) : (reply p c r b s).levels = s.levels := (reply_keeps p c r b s).2.2.2.1

@[simp] theorem reply_drive (p : Parcel) (c : ResultCode) (r : Bool) (b : List Word) (s : State) : (reply p c r b s).drive = s.drive := (reply_keeps p c r b s).2.2.2.2.1

@[simp] theorem reply_diag (p : Parcel) (c : ResultCode) (r : Bool) (b : List Word) (s : State) : (reply p c r b s).diag = s.diag := (reply_keeps p c r b s).2.2.2.2.2.1

@[simp] theorem reply_thermal (p : Parcel) (c : ResultCode) (r : Bool) (b : List Word) (s : State) : (reply p c r b s).thermal = s.thermal := (reply_keeps p c r b s).2.2.2.2.2.2.1

@[simp] theorem reply_supply (p : Parcel) (c : ResultCode) (r : Bool) (b : List Word) (s : State) : (reply p c r b s).supply = s.supply := (reply_keeps p c r b s).2.2.2.2.2.2.2.1

@[simp] theorem reply_watch (p : Parcel) (c : ResultCode) (r : Bool) (b : List Word) (s : State) : (reply p c r b s).watch = s.watch := (reply_keeps p c r b s).2.2.2.2.2.2.2.2.1

@[simp] theorem reply_snap (p : Parcel) (c : ResultCode) (r : Bool) (b : List Word) (s : State) : (reply p c r b s).snap = s.snap := (reply_keeps p c r b s).2.2.2.2.2.2.2.2.2.1

@[simp] theorem reply_pins (p : Parcel) (c : ResultCode) (r : Bool) (b : List Word) (s : State) : (reply p c r b s).pins = s.pins := (reply_keeps p c r b s).2.2.2.2.2.2.2.2.2.2.1

@[simp] theorem reply_freeUses (p : Parcel) (c : ResultCode) (r : Bool) (b : List Word) (s : State) : (reply p c r b s).freeUses = s.freeUses := (reply_keeps p c r b s).2.2.2.2.2.2.2.2.2.2.2.1

@[simp] theorem reply_pending (p : Parcel) (c : ResultCode) (r : Bool) (b : List Word) (s : State) : (reply p c r b s).pending = s.pending := (reply_keeps p c r b s).2.2.2.2.2.2.2.2.2.2.2.2

/-! ### pingRule -/

@[simp] theorem pingRule_link (p : Parcel) (s : State) : ((pingRule p s).1).link = s.link := by simp only [pingRule]

@[simp] theorem pingRule_tables (p : Parcel) (s : State) : ((pingRule p s).1).tables = s.tables := by simp only [pingRule]

@[simp] theorem pingRule_parcels (p : Parcel) (s : State) : ((pingRule p s).1).parcels = s.parcels := by simp only [pingRule]

@[simp] theorem pingRule_levels (p : Parcel) (s : State) : ((pingRule p s).1).levels = s.levels := by simp only [pingRule]

@[simp] theorem pingRule_drive (p : Parcel) (s : State) : ((pingRule p s).1).drive = s.drive := by simp only [pingRule]

@[simp] theorem pingRule_diag (p : Parcel) (s : State) : ((pingRule p s).1).diag = s.diag := by simp only [pingRule]

@[simp] theorem pingRule_thermal (p : Parcel) (s : State) : ((pingRule p s).1).thermal = s.thermal := by simp only [pingRule]

@[simp] theorem pingRule_supply (p : Parcel) (s : State) : ((pingRule p s).1).supply = s.supply := by simp only [pingRule]

@[simp] theorem pingRule_watch (p : Parcel) (s : State) : ((pingRule p s).1).watch = s.watch := by simp only [pingRule]

@[simp] theorem pingRule_ret (p : Parcel) (s : State) : ((pingRule p s).1).ret = s.ret := by simp only [pingRule]

@[simp] theorem pingRule_snap (p : Parcel) (s : State) : ((pingRule p s).1).snap = s.snap := by simp only [pingRule]

@[simp] theorem pingRule_pins (p : Parcel) (s : State) : ((pingRule p s).1).pins = s.pins := by simp only [pingRule]

@[simp] theorem pingRule_freeUses (p : Parcel) (s : State) : ((pingRule p s).1).freeUses = s.freeUses := by simp only [pingRule]

@[simp] theorem pingRule_pending (p : Parcel) (s : State) : ((pingRule p s).1).pending = s.pending := by simp only [pingRule]

/-! ### statusRule -/

@[simp] theorem statusRule_link (p : Parcel) (s : State) : ((statusRule p s).1).link = s.link := by simp only [statusRule]

@[simp] theorem statusRule_tables (p : Parcel) (s : State) : ((statusRule p s).1).tables = s.tables := by simp only [statusRule]

@[simp] theorem statusRule_parcels (p : Parcel) (s : State) : ((statusRule p s).1).parcels = s.parcels := by simp only [statusRule]

@[simp] theorem statusRule_levels (p : Parcel) (s : State) : ((statusRule p s).1).levels = s.levels := by simp only [statusRule]

@[simp] theorem statusRule_drive (p : Parcel) (s : State) : ((statusRule p s).1).drive = s.drive := by simp only [statusRule]

@[simp] theorem statusRule_diag (p : Parcel) (s : State) : ((statusRule p s).1).diag = s.diag := by simp only [statusRule]

@[simp] theorem statusRule_thermal (p : Parcel) (s : State) : ((statusRule p s).1).thermal = s.thermal := by simp only [statusRule]

@[simp] theorem statusRule_supply (p : Parcel) (s : State) : ((statusRule p s).1).supply = s.supply := by simp only [statusRule]

@[simp] theorem statusRule_watch (p : Parcel) (s : State) : ((statusRule p s).1).watch = s.watch := by simp only [statusRule]

@[simp] theorem statusRule_ret (p : Parcel) (s : State) : ((statusRule p s).1).ret = s.ret := by simp only [statusRule]

@[simp] theorem statusRule_snap (p : Parcel) (s : State) : ((statusRule p s).1).snap = s.snap := by simp only [statusRule]

@[simp] theorem statusRule_pins (p : Parcel) (s : State) : ((statusRule p s).1).pins = s.pins := by simp only [statusRule]

@[simp] theorem statusRule_freeUses (p : Parcel) (s : State) : ((statusRule p s).1).freeUses = s.freeUses := by simp only [statusRule]

@[simp] theorem statusRule_pending (p : Parcel) (s : State) : ((statusRule p s).1).pending = s.pending := by simp only [statusRule]

/-! ### writeRule -/

@[simp] theorem writeRule_link (p : Parcel) (s : State) : ((writeRule p s).1).link = s.link := by simp only [writeRule]

@[simp] theorem writeRule_parcels (p : Parcel) (s : State) : ((writeRule p s).1).parcels = s.parcels := by simp only [writeRule]

@[simp] theorem writeRule_levels (p : Parcel) (s : State) : ((writeRule p s).1).levels = s.levels := by simp only [writeRule]

@[simp] theorem writeRule_drive (p : Parcel) (s : State) : ((writeRule p s).1).drive = s.drive := by simp only [writeRule]

@[simp] theorem writeRule_diag (p : Parcel) (s : State) : ((writeRule p s).1).diag = s.diag := by simp only [writeRule]

@[simp] theorem writeRule_thermal (p : Parcel) (s : State) : ((writeRule p s).1).thermal = s.thermal := by simp only [writeRule]

@[simp] theorem writeRule_supply (p : Parcel) (s : State) : ((writeRule p s).1).supply = s.supply := by simp only [writeRule]

@[simp] theorem writeRule_watch (p : Parcel) (s : State) : ((writeRule p s).1).watch = s.watch := by simp only [writeRule]

@[simp] theorem writeRule_ret (p : Parcel) (s : State) : ((writeRule p s).1).ret = s.ret := by simp only [writeRule]

@[simp] theorem writeRule_snap (p : Parcel) (s : State) : ((writeRule p s).1).snap = s.snap := by simp only [writeRule]

@[simp] theorem writeRule_pins (p : Parcel) (s : State) : ((writeRule p s).1).pins = s.pins := by simp only [writeRule]

@[simp] theorem writeRule_freeUses (p : Parcel) (s : State) : ((writeRule p s).1).freeUses = s.freeUses := by simp only [writeRule]

@[simp] theorem writeRule_pending (p : Parcel) (s : State) : ((writeRule p s).1).pending = s.pending := by simp only [writeRule]

/-! ### readRule -/

@[simp] theorem readRule_link (p : Parcel) (s : State) : ((readRule p s).1).link = s.link := by simp only [readRule]

@[simp] theorem readRule_tables (p : Parcel) (s : State) : ((readRule p s).1).tables = s.tables := by simp only [readRule]

@[simp] theorem readRule_parcels (p : Parcel) (s : State) : ((readRule p s).1).parcels = s.parcels := by simp only [readRule]

@[simp] theorem readRule_levels (p : Parcel) (s : State) : ((readRule p s).1).levels = s.levels := by simp only [readRule]

@[simp] theorem readRule_drive (p : Parcel) (s : State) : ((readRule p s).1).drive = s.drive := by simp only [readRule]

@[simp] theorem readRule_diag (p : Parcel) (s : State) : ((readRule p s).1).diag = s.diag := by simp only [readRule]

@[simp] theorem readRule_thermal (p : Parcel) (s : State) : ((readRule p s).1).thermal = s.thermal := by simp only [readRule]

@[simp] theorem readRule_supply (p : Parcel) (s : State) : ((readRule p s).1).supply = s.supply := by simp only [readRule]

@[simp] theorem readRule_watch (p : Parcel) (s : State) : ((readRule p s).1).watch = s.watch := by simp only [readRule]

@[simp] theorem readRule_ret (p : Parcel) (s : State) : ((readRule p s).1).ret = s.ret := by simp only [readRule]

@[simp] theorem readRule_snap (p : Parcel) (s : State) : ((readRule p s).1).snap = s.snap := by simp only [readRule]

@[simp] theorem readRule_pins (p : Parcel) (s : State) : ((readRule p s).1).pins = s.pins := by simp only [readRule]

@[simp] theorem readRule_freeUses (p : Parcel) (s : State) : ((readRule p s).1).freeUses = s.freeUses := by simp only [readRule]

@[simp] theorem readRule_pending (p : Parcel) (s : State) : ((readRule p s).1).pending = s.pending := by simp only [readRule]

/-! ### commitRule -/

@[simp] theorem commitRule_link (p : Parcel) (s : State) : ((commitRule p s).1).link = s.link := by simp only [commitRule]

@[simp] theorem commitRule_parcels (p : Parcel) (s : State) : ((commitRule p s).1).parcels = s.parcels := by simp only [commitRule]

@[simp] theorem commitRule_levels (p : Parcel) (s : State) : ((commitRule p s).1).levels = s.levels := by simp only [commitRule]

@[simp] theorem commitRule_drive (p : Parcel) (s : State) : ((commitRule p s).1).drive = s.drive := by simp only [commitRule]

@[simp] theorem commitRule_diag (p : Parcel) (s : State) : ((commitRule p s).1).diag = s.diag := by simp only [commitRule]

@[simp] theorem commitRule_thermal (p : Parcel) (s : State) : ((commitRule p s).1).thermal = s.thermal := by simp only [commitRule]

@[simp] theorem commitRule_supply (p : Parcel) (s : State) : ((commitRule p s).1).supply = s.supply := by simp only [commitRule]

@[simp] theorem commitRule_watch (p : Parcel) (s : State) : ((commitRule p s).1).watch = s.watch := by simp only [commitRule]

@[simp] theorem commitRule_ret (p : Parcel) (s : State) : ((commitRule p s).1).ret = s.ret := by simp only [commitRule]

@[simp] theorem commitRule_snap (p : Parcel) (s : State) : ((commitRule p s).1).snap = s.snap := by simp only [commitRule]

@[simp] theorem commitRule_pins (p : Parcel) (s : State) : ((commitRule p s).1).pins = s.pins := by simp only [commitRule]

@[simp] theorem commitRule_freeUses (p : Parcel) (s : State) : ((commitRule p s).1).freeUses = s.freeUses := by simp only [commitRule]

@[simp] theorem commitRule_pending (p : Parcel) (s : State) : ((commitRule p s).1).pending = s.pending := by simp only [commitRule]

/-! ### discardRule -/

@[simp] theorem discardRule_link (p : Parcel) (s : State) : ((discardRule p s).1).link = s.link := by simp only [discardRule]

@[simp] theorem discardRule_parcels (p : Parcel) (s : State) : ((discardRule p s).1).parcels = s.parcels := by simp only [discardRule]

@[simp] theorem discardRule_levels (p : Parcel) (s : State) : ((discardRule p s).1).levels = s.levels := by simp only [discardRule]

@[simp] theorem discardRule_drive (p : Parcel) (s : State) : ((discardRule p s).1).drive = s.drive := by simp only [discardRule]

@[simp] theorem discardRule_diag (p : Parcel) (s : State) : ((discardRule p s).1).diag = s.diag := by simp only [discardRule]

@[simp] theorem discardRule_thermal (p : Parcel) (s : State) : ((discardRule p s).1).thermal = s.thermal := by simp only [discardRule]

@[simp] theorem discardRule_supply (p : Parcel) (s : State) : ((discardRule p s).1).supply = s.supply := by simp only [discardRule]

@[simp] theorem discardRule_watch (p : Parcel) (s : State) : ((discardRule p s).1).watch = s.watch := by simp only [discardRule]

@[simp] theorem discardRule_ret (p : Parcel) (s : State) : ((discardRule p s).1).ret = s.ret := by simp only [discardRule]

@[simp] theorem discardRule_snap (p : Parcel) (s : State) : ((discardRule p s).1).snap = s.snap := by simp only [discardRule]

@[simp] theorem discardRule_pins (p : Parcel) (s : State) : ((discardRule p s).1).pins = s.pins := by simp only [discardRule]

@[simp] theorem discardRule_freeUses (p : Parcel) (s : State) : ((discardRule p s).1).freeUses = s.freeUses := by simp only [discardRule]

@[simp] theorem discardRule_pending (p : Parcel) (s : State) : ((discardRule p s).1).pending = s.pending := by simp only [discardRule]

/-! ### freezeRule -/

@[simp] theorem freezeRule_link (p : Parcel) (s : State) : ((freezeRule p s).1).link = s.link := by simp only [freezeRule]

@[simp] theorem freezeRule_parcels (p : Parcel) (s : State) : ((freezeRule p s).1).parcels = s.parcels := by simp only [freezeRule]

@[simp] theorem freezeRule_levels (p : Parcel) (s : State) : ((freezeRule p s).1).levels = s.levels := by simp only [freezeRule]

@[simp] theorem freezeRule_drive (p : Parcel) (s : State) : ((freezeRule p s).1).drive = s.drive := by simp only [freezeRule]

@[simp] theorem freezeRule_diag (p : Parcel) (s : State) : ((freezeRule p s).1).diag = s.diag := by simp only [freezeRule]

@[simp] theorem freezeRule_thermal (p : Parcel) (s : State) : ((freezeRule p s).1).thermal = s.thermal := by simp only [freezeRule]

@[simp] theorem freezeRule_supply (p : Parcel) (s : State) : ((freezeRule p s).1).supply = s.supply := by simp only [freezeRule]

@[simp] theorem freezeRule_watch (p : Parcel) (s : State) : ((freezeRule p s).1).watch = s.watch := by simp only [freezeRule]

@[simp] theorem freezeRule_ret (p : Parcel) (s : State) : ((freezeRule p s).1).ret = s.ret := by simp only [freezeRule]

@[simp] theorem freezeRule_snap (p : Parcel) (s : State) : ((freezeRule p s).1).snap = s.snap := by simp only [freezeRule]

@[simp] theorem freezeRule_pins (p : Parcel) (s : State) : ((freezeRule p s).1).pins = s.pins := by simp only [freezeRule]

@[simp] theorem freezeRule_freeUses (p : Parcel) (s : State) : ((freezeRule p s).1).freeUses = s.freeUses := by simp only [freezeRule]

@[simp] theorem freezeRule_pending (p : Parcel) (s : State) : ((freezeRule p s).1).pending = s.pending := by simp only [freezeRule]

/-! ### thawRule -/

@[simp] theorem thawRule_link (p : Parcel) (s : State) : ((thawRule p s).1).link = s.link := by simp only [thawRule]

@[simp] theorem thawRule_parcels (p : Parcel) (s : State) : ((thawRule p s).1).parcels = s.parcels := by simp only [thawRule]

@[simp] theorem thawRule_levels (p : Parcel) (s : State) : ((thawRule p s).1).levels = s.levels := by simp only [thawRule]

@[simp] theorem thawRule_drive (p : Parcel) (s : State) : ((thawRule p s).1).drive = s.drive := by simp only [thawRule]

@[simp] theorem thawRule_diag (p : Parcel) (s : State) : ((thawRule p s).1).diag = s.diag := by simp only [thawRule]

@[simp] theorem thawRule_thermal (p : Parcel) (s : State) : ((thawRule p s).1).thermal = s.thermal := by simp only [thawRule]

@[simp] theorem thawRule_supply (p : Parcel) (s : State) : ((thawRule p s).1).supply = s.supply := by simp only [thawRule]

@[simp] theorem thawRule_watch (p : Parcel) (s : State) : ((thawRule p s).1).watch = s.watch := by simp only [thawRule]

@[simp] theorem thawRule_ret (p : Parcel) (s : State) : ((thawRule p s).1).ret = s.ret := by simp only [thawRule]

@[simp] theorem thawRule_snap (p : Parcel) (s : State) : ((thawRule p s).1).snap = s.snap := by simp only [thawRule]

@[simp] theorem thawRule_pins (p : Parcel) (s : State) : ((thawRule p s).1).pins = s.pins := by simp only [thawRule]

@[simp] theorem thawRule_freeUses (p : Parcel) (s : State) : ((thawRule p s).1).freeUses = s.freeUses := by simp only [thawRule]

@[simp] theorem thawRule_pending (p : Parcel) (s : State) : ((thawRule p s).1).pending = s.pending := by simp only [thawRule]

/-! ### captureRule -/

@[simp] theorem captureRule_link (p : Parcel) (s : State) : ((captureRule p s).1).link = s.link := by simp only [captureRule]

@[simp] theorem captureRule_tables (p : Parcel) (s : State) : ((captureRule p s).1).tables = s.tables := by simp only [captureRule]

@[simp] theorem captureRule_parcels (p : Parcel) (s : State) : ((captureRule p s).1).parcels = s.parcels := by simp only [captureRule]

@[simp] theorem captureRule_levels (p : Parcel) (s : State) : ((captureRule p s).1).levels = s.levels := by simp only [captureRule]

@[simp] theorem captureRule_drive (p : Parcel) (s : State) : ((captureRule p s).1).drive = s.drive := by simp only [captureRule]

@[simp] theorem captureRule_diag (p : Parcel) (s : State) : ((captureRule p s).1).diag = s.diag := by simp only [captureRule]

@[simp] theorem captureRule_thermal (p : Parcel) (s : State) : ((captureRule p s).1).thermal = s.thermal := by simp only [captureRule]

@[simp] theorem captureRule_supply (p : Parcel) (s : State) : ((captureRule p s).1).supply = s.supply := by simp only [captureRule]

@[simp] theorem captureRule_watch (p : Parcel) (s : State) : ((captureRule p s).1).watch = s.watch := by simp only [captureRule]

@[simp] theorem captureRule_ret (p : Parcel) (s : State) : ((captureRule p s).1).ret = s.ret := by simp only [captureRule]

@[simp] theorem captureRule_pins (p : Parcel) (s : State) : ((captureRule p s).1).pins = s.pins := by simp only [captureRule]

@[simp] theorem captureRule_freeUses (p : Parcel) (s : State) : ((captureRule p s).1).freeUses = s.freeUses := by simp only [captureRule]

@[simp] theorem captureRule_pending (p : Parcel) (s : State) : ((captureRule p s).1).pending = s.pending := by simp only [captureRule]

/-! ### readSnapshotRule -/

@[simp] theorem readSnapshotRule_link (p : Parcel) (s : State) : ((readSnapshotRule p s).1).link = s.link := by simp only [readSnapshotRule]

@[simp] theorem readSnapshotRule_tables (p : Parcel) (s : State) : ((readSnapshotRule p s).1).tables = s.tables := by simp only [readSnapshotRule]

@[simp] theorem readSnapshotRule_parcels (p : Parcel) (s : State) : ((readSnapshotRule p s).1).parcels = s.parcels := by simp only [readSnapshotRule]

@[simp] theorem readSnapshotRule_levels (p : Parcel) (s : State) : ((readSnapshotRule p s).1).levels = s.levels := by simp only [readSnapshotRule]

@[simp] theorem readSnapshotRule_drive (p : Parcel) (s : State) : ((readSnapshotRule p s).1).drive = s.drive := by simp only [readSnapshotRule]

@[simp] theorem readSnapshotRule_diag (p : Parcel) (s : State) : ((readSnapshotRule p s).1).diag = s.diag := by simp only [readSnapshotRule]

@[simp] theorem readSnapshotRule_thermal (p : Parcel) (s : State) : ((readSnapshotRule p s).1).thermal = s.thermal := by simp only [readSnapshotRule]

@[simp] theorem readSnapshotRule_supply (p : Parcel) (s : State) : ((readSnapshotRule p s).1).supply = s.supply := by simp only [readSnapshotRule]

@[simp] theorem readSnapshotRule_watch (p : Parcel) (s : State) : ((readSnapshotRule p s).1).watch = s.watch := by simp only [readSnapshotRule]

@[simp] theorem readSnapshotRule_ret (p : Parcel) (s : State) : ((readSnapshotRule p s).1).ret = s.ret := by simp only [readSnapshotRule]

@[simp] theorem readSnapshotRule_snap (p : Parcel) (s : State) : ((readSnapshotRule p s).1).snap = s.snap := by simp only [readSnapshotRule]

@[simp] theorem readSnapshotRule_pins (p : Parcel) (s : State) : ((readSnapshotRule p s).1).pins = s.pins := by simp only [readSnapshotRule]

@[simp] theorem readSnapshotRule_freeUses (p : Parcel) (s : State) : ((readSnapshotRule p s).1).freeUses = s.freeUses := by simp only [readSnapshotRule]

@[simp] theorem readSnapshotRule_pending (p : Parcel) (s : State) : ((readSnapshotRule p s).1).pending = s.pending := by simp only [readSnapshotRule]

/-! ### ackStartRule -/

@[simp] theorem ackStartRule_link (p : Parcel) (s : State) : ((ackStartRule p s).1).link = s.link := by simp only [ackStartRule]

@[simp] theorem ackStartRule_tables (p : Parcel) (s : State) : ((ackStartRule p s).1).tables = s.tables := by simp only [ackStartRule]

@[simp] theorem ackStartRule_levels (p : Parcel) (s : State) : ((ackStartRule p s).1).levels = s.levels := by simp only [ackStartRule]

@[simp] theorem ackStartRule_drive (p : Parcel) (s : State) : ((ackStartRule p s).1).drive = s.drive := by simp only [ackStartRule]

@[simp] theorem ackStartRule_diag (p : Parcel) (s : State) : ((ackStartRule p s).1).diag = s.diag := by simp only [ackStartRule]

@[simp] theorem ackStartRule_thermal (p : Parcel) (s : State) : ((ackStartRule p s).1).thermal = s.thermal := by simp only [ackStartRule]

@[simp] theorem ackStartRule_supply (p : Parcel) (s : State) : ((ackStartRule p s).1).supply = s.supply := by simp only [ackStartRule]

@[simp] theorem ackStartRule_watch (p : Parcel) (s : State) : ((ackStartRule p s).1).watch = s.watch := by simp only [ackStartRule]

@[simp] theorem ackStartRule_ret (p : Parcel) (s : State) : ((ackStartRule p s).1).ret = s.ret := by simp only [ackStartRule]

@[simp] theorem ackStartRule_snap (p : Parcel) (s : State) : ((ackStartRule p s).1).snap = s.snap := by simp only [ackStartRule]

@[simp] theorem ackStartRule_pins (p : Parcel) (s : State) : ((ackStartRule p s).1).pins = s.pins := by simp only [ackStartRule]

@[simp] theorem ackStartRule_freeUses (p : Parcel) (s : State) : ((ackStartRule p s).1).freeUses = s.freeUses := by simp only [ackStartRule]

@[simp] theorem ackStartRule_pending (p : Parcel) (s : State) : ((ackStartRule p s).1).pending = s.pending := by simp only [ackStartRule]

/-! ### clearFaultsRule -/

@[simp] theorem clearFaultsRule_link (p : Parcel) (s : State) : ((clearFaultsRule p s).1).link = s.link := by simp only [clearFaultsRule]

@[simp] theorem clearFaultsRule_tables (p : Parcel) (s : State) : ((clearFaultsRule p s).1).tables = s.tables := by simp only [clearFaultsRule]

@[simp] theorem clearFaultsRule_parcels (p : Parcel) (s : State) : ((clearFaultsRule p s).1).parcels = s.parcels := by simp only [clearFaultsRule]

@[simp] theorem clearFaultsRule_levels (p : Parcel) (s : State) : ((clearFaultsRule p s).1).levels = s.levels := by simp only [clearFaultsRule]

@[simp] theorem clearFaultsRule_drive (p : Parcel) (s : State) : ((clearFaultsRule p s).1).drive = s.drive := by simp only [clearFaultsRule]

@[simp] theorem clearFaultsRule_watch (p : Parcel) (s : State) : ((clearFaultsRule p s).1).watch = s.watch := by simp only [clearFaultsRule]

@[simp] theorem clearFaultsRule_ret (p : Parcel) (s : State) : ((clearFaultsRule p s).1).ret = s.ret := by simp only [clearFaultsRule]

@[simp] theorem clearFaultsRule_snap (p : Parcel) (s : State) : ((clearFaultsRule p s).1).snap = s.snap := by simp only [clearFaultsRule]

@[simp] theorem clearFaultsRule_pins (p : Parcel) (s : State) : ((clearFaultsRule p s).1).pins = s.pins := by simp only [clearFaultsRule]

@[simp] theorem clearFaultsRule_freeUses (p : Parcel) (s : State) : ((clearFaultsRule p s).1).freeUses = s.freeUses := by simp only [clearFaultsRule]

@[simp] theorem clearFaultsRule_pending (p : Parcel) (s : State) : ((clearFaultsRule p s).1).pending = s.pending := by simp only [clearFaultsRule]

/-! ### runParcel: what the rule of the kind leaves alone, its execution leaves alone -/

theorem runParcel_link (k : ParcelKind) (rule : ParcelRule) (h : ∀ p s, (rule p s).1.link = s.link) (s : State) :
    (runParcel k rule s).link = s.link := by
  unfold runParcel addressedSteps broadcastSteps executeAddressed; (repeat' split) <;> simp [h]

theorem runParcel_tables (k : ParcelKind) (rule : ParcelRule) (h : ∀ p s, (rule p s).1.tables = s.tables) (s : State) :
    (runParcel k rule s).tables = s.tables := by
  unfold runParcel addressedSteps broadcastSteps executeAddressed; (repeat' split) <;> simp [h]

theorem runParcel_levels (k : ParcelKind) (rule : ParcelRule) (h : ∀ p s, (rule p s).1.levels = s.levels) (s : State) :
    (runParcel k rule s).levels = s.levels := by
  unfold runParcel addressedSteps broadcastSteps executeAddressed; (repeat' split) <;> simp [h]

theorem runParcel_drive (k : ParcelKind) (rule : ParcelRule) (h : ∀ p s, (rule p s).1.drive = s.drive) (s : State) :
    (runParcel k rule s).drive = s.drive := by
  unfold runParcel addressedSteps broadcastSteps executeAddressed; (repeat' split) <;> simp [h]

theorem runParcel_diag (k : ParcelKind) (rule : ParcelRule) (h : ∀ p s, (rule p s).1.diag = s.diag) (s : State) :
    (runParcel k rule s).diag = s.diag := by
  unfold runParcel addressedSteps broadcastSteps executeAddressed; (repeat' split) <;> simp [h]

theorem runParcel_thermal (k : ParcelKind) (rule : ParcelRule) (h : ∀ p s, (rule p s).1.thermal = s.thermal) (s : State) :
    (runParcel k rule s).thermal = s.thermal := by
  unfold runParcel addressedSteps broadcastSteps executeAddressed; (repeat' split) <;> simp [h]

theorem runParcel_supply (k : ParcelKind) (rule : ParcelRule) (h : ∀ p s, (rule p s).1.supply = s.supply) (s : State) :
    (runParcel k rule s).supply = s.supply := by
  unfold runParcel addressedSteps broadcastSteps executeAddressed; (repeat' split) <;> simp [h]

theorem runParcel_watch (k : ParcelKind) (rule : ParcelRule) (h : ∀ p s, (rule p s).1.watch = s.watch) (s : State) :
    (runParcel k rule s).watch = s.watch := by
  unfold runParcel addressedSteps broadcastSteps executeAddressed; (repeat' split) <;> simp [h]

theorem runParcel_snap (k : ParcelKind) (rule : ParcelRule) (h : ∀ p s, (rule p s).1.snap = s.snap) (s : State) :
    (runParcel k rule s).snap = s.snap := by
  unfold runParcel addressedSteps broadcastSteps executeAddressed; (repeat' split) <;> simp [h]

theorem runParcel_pins (k : ParcelKind) (rule : ParcelRule) (h : ∀ p s, (rule p s).1.pins = s.pins) (s : State) :
    (runParcel k rule s).pins = s.pins := by
  unfold runParcel addressedSteps broadcastSteps executeAddressed; (repeat' split) <;> simp [h]

theorem runParcel_freeUses (k : ParcelKind) (rule : ParcelRule) (h : ∀ p s, (rule p s).1.freeUses = s.freeUses) (s : State) :
    (runParcel k rule s).freeUses = s.freeUses := by
  unfold runParcel addressedSteps broadcastSteps executeAddressed; (repeat' split) <;> simp [h]

theorem runParcel_pending (k : ParcelKind) (rule : ParcelRule) (h : ∀ p s, (rule p s).1.pending = s.pending) (s : State) :
    (runParcel k rule s).pending = s.pending := by
  unfold runParcel addressedSteps broadcastSteps executeAddressed; (repeat' split) <;> simp [h]

/-! ### runUnknown -/

theorem runUnknown_keeps (s : State) :
    (runUnknown s).link = s.link ∧ (runUnknown s).tables = s.tables ∧ (runUnknown s).levels = s.levels ∧ (runUnknown s).drive = s.drive ∧ (runUnknown s).diag = s.diag ∧ (runUnknown s).thermal = s.thermal ∧ (runUnknown s).supply = s.supply ∧ (runUnknown s).watch = s.watch ∧ (runUnknown s).snap = s.snap ∧ (runUnknown s).pins = s.pins ∧ (runUnknown s).freeUses = s.freeUses ∧ (runUnknown s).pending = s.pending := by
  unfold runUnknown; dsimp only; (repeat' split) <;> simp

@[simp] theorem runUnknown_link (s : State) : (runUnknown s).link = s.link := (runUnknown_keeps s).1

@[simp] theorem runUnknown_tables (s : State) : (runUnknown s).tables = s.tables := (runUnknown_keeps s).2.1

@[simp] theorem runUnknown_levels (s : State) : (runUnknown s).levels = s.levels := (runUnknown_keeps s).2.2.1

@[simp] theorem runUnknown_drive (s : State) : (runUnknown s).drive = s.drive := (runUnknown_keeps s).2.2.2.1

@[simp] theorem runUnknown_diag (s : State) : (runUnknown s).diag = s.diag := (runUnknown_keeps s).2.2.2.2.1

@[simp] theorem runUnknown_thermal (s : State) : (runUnknown s).thermal = s.thermal := (runUnknown_keeps s).2.2.2.2.2.1

@[simp] theorem runUnknown_supply (s : State) : (runUnknown s).supply = s.supply := (runUnknown_keeps s).2.2.2.2.2.2.1

@[simp] theorem runUnknown_watch (s : State) : (runUnknown s).watch = s.watch := (runUnknown_keeps s).2.2.2.2.2.2.2.1

@[simp] theorem runUnknown_snap (s : State) : (runUnknown s).snap = s.snap := (runUnknown_keeps s).2.2.2.2.2.2.2.2.1

@[simp] theorem runUnknown_pins (s : State) : (runUnknown s).pins = s.pins := (runUnknown_keeps s).2.2.2.2.2.2.2.2.2.1

@[simp] theorem runUnknown_freeUses (s : State) : (runUnknown s).freeUses = s.freeUses := (runUnknown_keeps s).2.2.2.2.2.2.2.2.2.2.1

@[simp] theorem runUnknown_pending (s : State) : (runUnknown s).pending = s.pending := (runUnknown_keeps s).2.2.2.2.2.2.2.2.2.2.2

/-! ### restartBlocks -/

theorem restartBlocks_keeps (s : State) :
    (restartBlocks s).drive = s.drive ∧ (restartBlocks s).thermal = s.thermal ∧ (restartBlocks s).supply = s.supply ∧ (restartBlocks s).pins = s.pins ∧ (restartBlocks s).freeUses = s.freeUses ∧ (restartBlocks s).pending = s.pending := by
  unfold restartBlocks; simp

@[simp] theorem restartBlocks_drive (s : State) : (restartBlocks s).drive = s.drive := (restartBlocks_keeps s).1

@[simp] theorem restartBlocks_thermal (s : State) : (restartBlocks s).thermal = s.thermal := (restartBlocks_keeps s).2.1

@[simp] theorem restartBlocks_supply (s : State) : (restartBlocks s).supply = s.supply := (restartBlocks_keeps s).2.2.1

@[simp] theorem restartBlocks_pins (s : State) : (restartBlocks s).pins = s.pins := (restartBlocks_keeps s).2.2.2.1

@[simp] theorem restartBlocks_freeUses (s : State) : (restartBlocks s).freeUses = s.freeUses := (restartBlocks_keeps s).2.2.2.2.1

@[simp] theorem restartBlocks_pending (s : State) : (restartBlocks s).pending = s.pending := (restartBlocks_keeps s).2.2.2.2.2

/-- The restart of the other blocks leaves the return lane as the flush left it (R148). -/
@[simp] theorem restartBlocks_ret (s : State) : (restartBlocks s).ret = (flushQueue s).ret := by simp only [restartBlocks]

@[simp] theorem restartBlocks_changed (s : State) : (restartBlocks s).diag.changed = (flushQueue s).diag.changed := by
  simp only [restartBlocks]

/-- What waits after the restart of the blocks is what the flush raised (R148). -/
theorem restartBlocks_noticePending (s : State) (k : NoticeKind) :
    noticePending (restartBlocks s) k = noticePending (flushQueue s) k := by
  cases k <;> simp only [noticePending, restartBlocks_ret, restartBlocks_changed]

/-! ### runRestart -/

theorem runRestart_keeps (s : State) :
    (runRestart s).drive = s.drive ∧ (runRestart s).thermal = s.thermal ∧ (runRestart s).supply = s.supply ∧ (runRestart s).pins = s.pins ∧ (runRestart s).freeUses = s.freeUses ∧ (runRestart s).pending = s.pending := by
  unfold runRestart addressedSteps executeAddressed; (repeat' split) <;> simp

@[simp] theorem runRestart_drive (s : State) : (runRestart s).drive = s.drive := (runRestart_keeps s).1

@[simp] theorem runRestart_thermal (s : State) : (runRestart s).thermal = s.thermal := (runRestart_keeps s).2.1

@[simp] theorem runRestart_supply (s : State) : (runRestart s).supply = s.supply := (runRestart_keeps s).2.2.1

@[simp] theorem runRestart_pins (s : State) : (runRestart s).pins = s.pins := (runRestart_keeps s).2.2.2.1

@[simp] theorem runRestart_freeUses (s : State) : (runRestart s).freeUses = s.freeUses := (runRestart_keeps s).2.2.2.2.1

@[simp] theorem runRestart_pending (s : State) : (runRestart s).pending = s.pending := (runRestart_keeps s).2.2.2.2.2

/-! ### sampleTemperature -/

theorem sampleTemperature_keeps (m : Int) (n : Nat) (s : State) :
    (sampleTemperature m n s).link = s.link ∧ (sampleTemperature m n s).tables = s.tables ∧ (sampleTemperature m n s).parcels = s.parcels ∧ (sampleTemperature m n s).levels = s.levels ∧ (sampleTemperature m n s).supply = s.supply ∧ (sampleTemperature m n s).watch = s.watch ∧ (sampleTemperature m n s).snap = s.snap ∧ (sampleTemperature m n s).pins = s.pins ∧ (sampleTemperature m n s).freeUses = s.freeUses ∧ (sampleTemperature m n s).pending = s.pending := by
  unfold sampleTemperature; dsimp only; (repeat' split) <;> simp

@[simp] theorem sampleTemperature_link (m : Int) (n : Nat) (s : State) : (sampleTemperature m n s).link = s.link := (sampleTemperature_keeps m n s).1

@[simp] theorem sampleTemperature_tables (m : Int) (n : Nat) (s : State) : (sampleTemperature m n s).tables = s.tables := (sampleTemperature_keeps m n s).2.1

@[simp] theorem sampleTemperature_parcels (m : Int) (n : Nat) (s : State) : (sampleTemperature m n s).parcels = s.parcels := (sampleTemperature_keeps m n s).2.2.1

@[simp] theorem sampleTemperature_levels (m : Int) (n : Nat) (s : State) : (sampleTemperature m n s).levels = s.levels := (sampleTemperature_keeps m n s).2.2.2.1

@[simp] theorem sampleTemperature_supply (m : Int) (n : Nat) (s : State) : (sampleTemperature m n s).supply = s.supply := (sampleTemperature_keeps m n s).2.2.2.2.1

@[simp] theorem sampleTemperature_watch (m : Int) (n : Nat) (s : State) : (sampleTemperature m n s).watch = s.watch := (sampleTemperature_keeps m n s).2.2.2.2.2.1

@[simp] theorem sampleTemperature_snap (m : Int) (n : Nat) (s : State) : (sampleTemperature m n s).snap = s.snap := (sampleTemperature_keeps m n s).2.2.2.2.2.2.1

@[simp] theorem sampleTemperature_pins (m : Int) (n : Nat) (s : State) : (sampleTemperature m n s).pins = s.pins := (sampleTemperature_keeps m n s).2.2.2.2.2.2.2.1

@[simp] theorem sampleTemperature_freeUses (m : Int) (n : Nat) (s : State) : (sampleTemperature m n s).freeUses = s.freeUses := (sampleTemperature_keeps m n s).2.2.2.2.2.2.2.2.1

@[simp] theorem sampleTemperature_pending (m : Int) (n : Nat) (s : State) : (sampleTemperature m n s).pending = s.pending := (sampleTemperature_keeps m n s).2.2.2.2.2.2.2.2.2

/-! ### completeCycle -/

theorem completeCycle_keeps (o : CycleObs) (s : State) :
    (completeCycle o s).link = s.link ∧ (completeCycle o s).tables = s.tables ∧ (completeCycle o s).parcels = s.parcels ∧ (completeCycle o s).levels = s.levels ∧ (completeCycle o s).thermal = s.thermal ∧ (completeCycle o s).watch = s.watch ∧ (completeCycle o s).snap = s.snap ∧ (completeCycle o s).pins = s.pins ∧ (completeCycle o s).freeUses = s.freeUses ∧ (completeCycle o s).pending = s.pending := by
  unfold completeCycle; dsimp only; (repeat' split) <;> simp

@[simp] theorem completeCycle_link (o : CycleObs) (s : State) : (completeCycle o s).link = s.link := (completeCycle_keeps o s).1

@[simp] theorem completeCycle_tables (o : CycleObs) (s : State) : (completeCycle o s).tables = s.tables := (completeCycle_keeps o s).2.1

@[simp] theorem completeCycle_parcels (o : CycleObs) (s : State) : (completeCycle o s).parcels = s.parcels := (completeCycle_keeps o s).2.2.1

@[simp] theorem completeCycle_levels (o : CycleObs) (s : State) : (completeCycle o s).levels = s.levels := (completeCycle_keeps o s).2.2.2.1

@[simp] theorem completeCycle_thermal (o : CycleObs) (s : State) : (completeCycle o s).thermal = s.thermal := (completeCycle_keeps o s).2.2.2.2.1

@[simp] theorem completeCycle_watch (o : CycleObs) (s : State) : (completeCycle o s).watch = s.watch := (completeCycle_keeps o s).2.2.2.2.2.1

@[simp] theorem completeCycle_snap (o : CycleObs) (s : State) : (completeCycle o s).snap = s.snap := (completeCycle_keeps o s).2.2.2.2.2.2.1

@[simp] theorem completeCycle_pins (o : CycleObs) (s : State) : (completeCycle o s).pins = s.pins := (completeCycle_keeps o s).2.2.2.2.2.2.2.1

@[simp] theorem completeCycle_freeUses (o : CycleObs) (s : State) : (completeCycle o s).freeUses = s.freeUses := (completeCycle_keeps o s).2.2.2.2.2.2.2.2.1

@[simp] theorem completeCycle_pending (o : CycleObs) (s : State) : (completeCycle o s).pending = s.pending := (completeCycle_keeps o s).2.2.2.2.2.2.2.2.2

/-! ### expireWatch -/

theorem expireWatch_keeps (s : State) :
    (expireWatch s).link = s.link ∧ (expireWatch s).tables = s.tables ∧ (expireWatch s).parcels = s.parcels ∧ (expireWatch s).levels = s.levels ∧ (expireWatch s).drive = s.drive ∧ (expireWatch s).thermal = s.thermal ∧ (expireWatch s).supply = s.supply ∧ (expireWatch s).snap = s.snap ∧ (expireWatch s).pins = s.pins ∧ (expireWatch s).freeUses = s.freeUses ∧ (expireWatch s).pending = s.pending := by
  unfold expireWatch; dsimp only; (repeat' split) <;> simp

@[simp] theorem expireWatch_link (s : State) : (expireWatch s).link = s.link := (expireWatch_keeps s).1

@[simp] theorem expireWatch_tables (s : State) : (expireWatch s).tables = s.tables := (expireWatch_keeps s).2.1

@[simp] theorem expireWatch_parcels (s : State) : (expireWatch s).parcels = s.parcels := (expireWatch_keeps s).2.2.1

@[simp] theorem expireWatch_levels (s : State) : (expireWatch s).levels = s.levels := (expireWatch_keeps s).2.2.2.1

@[simp] theorem expireWatch_drive (s : State) : (expireWatch s).drive = s.drive := (expireWatch_keeps s).2.2.2.2.1

@[simp] theorem expireWatch_thermal (s : State) : (expireWatch s).thermal = s.thermal := (expireWatch_keeps s).2.2.2.2.2.1

@[simp] theorem expireWatch_supply (s : State) : (expireWatch s).supply = s.supply := (expireWatch_keeps s).2.2.2.2.2.2.1

@[simp] theorem expireWatch_snap (s : State) : (expireWatch s).snap = s.snap := (expireWatch_keeps s).2.2.2.2.2.2.2.1

@[simp] theorem expireWatch_pins (s : State) : (expireWatch s).pins = s.pins := (expireWatch_keeps s).2.2.2.2.2.2.2.2.1

@[simp] theorem expireWatch_freeUses (s : State) : (expireWatch s).freeUses = s.freeUses := (expireWatch_keeps s).2.2.2.2.2.2.2.2.2.1

@[simp] theorem expireWatch_pending (s : State) : (expireWatch s).pending = s.pending := (expireWatch_keeps s).2.2.2.2.2.2.2.2.2.2

/-! ### expireHoldover -/

theorem expireHoldover_keeps (s : State) :
    (expireHoldover s).link = s.link ∧ (expireHoldover s).tables = s.tables ∧ (expireHoldover s).parcels = s.parcels ∧ (expireHoldover s).levels = s.levels ∧ (expireHoldover s).drive = s.drive ∧ (expireHoldover s).thermal = s.thermal ∧ (expireHoldover s).supply = s.supply ∧ (expireHoldover s).snap = s.snap ∧ (expireHoldover s).pins = s.pins ∧ (expireHoldover s).freeUses = s.freeUses ∧ (expireHoldover s).pending = s.pending := by
  unfold expireHoldover; simp

@[simp] theorem expireHoldover_link (s : State) : (expireHoldover s).link = s.link := (expireHoldover_keeps s).1

@[simp] theorem expireHoldover_tables (s : State) : (expireHoldover s).tables = s.tables := (expireHoldover_keeps s).2.1

@[simp] theorem expireHoldover_parcels (s : State) : (expireHoldover s).parcels = s.parcels := (expireHoldover_keeps s).2.2.1

@[simp] theorem expireHoldover_levels (s : State) : (expireHoldover s).levels = s.levels := (expireHoldover_keeps s).2.2.2.1

@[simp] theorem expireHoldover_drive (s : State) : (expireHoldover s).drive = s.drive := (expireHoldover_keeps s).2.2.2.2.1

@[simp] theorem expireHoldover_thermal (s : State) : (expireHoldover s).thermal = s.thermal := (expireHoldover_keeps s).2.2.2.2.2.1

@[simp] theorem expireHoldover_supply (s : State) : (expireHoldover s).supply = s.supply := (expireHoldover_keeps s).2.2.2.2.2.2.1

@[simp] theorem expireHoldover_snap (s : State) : (expireHoldover s).snap = s.snap := (expireHoldover_keeps s).2.2.2.2.2.2.2.1

@[simp] theorem expireHoldover_pins (s : State) : (expireHoldover s).pins = s.pins := (expireHoldover_keeps s).2.2.2.2.2.2.2.2.1

@[simp] theorem expireHoldover_freeUses (s : State) : (expireHoldover s).freeUses = s.freeUses := (expireHoldover_keeps s).2.2.2.2.2.2.2.2.2.1

@[simp] theorem expireHoldover_pending (s : State) : (expireHoldover s).pending = s.pending := (expireHoldover_keeps s).2.2.2.2.2.2.2.2.2.2

/-! ### startOnRi -/

theorem startOnRi_keeps (s : State) :
    (startOnRi s).link = s.link ∧ (startOnRi s).tables = s.tables ∧ (startOnRi s).parcels = s.parcels ∧ (startOnRi s).levels = s.levels ∧ (startOnRi s).drive = s.drive ∧ (startOnRi s).diag = s.diag ∧ (startOnRi s).thermal = s.thermal ∧ (startOnRi s).supply = s.supply ∧ (startOnRi s).watch = s.watch ∧ (startOnRi s).snap = s.snap ∧ (startOnRi s).pins = s.pins ∧ (startOnRi s).freeUses = s.freeUses ∧ (startOnRi s).pending = s.pending := by
  unfold startOnRi; dsimp only; (repeat' split) <;> simp

@[simp] theorem startOnRi_link (s : State) : (startOnRi s).link = s.link := (startOnRi_keeps s).1

@[simp] theorem startOnRi_tables (s : State) : (startOnRi s).tables = s.tables := (startOnRi_keeps s).2.1

@[simp] theorem startOnRi_parcels (s : State) : (startOnRi s).parcels = s.parcels := (startOnRi_keeps s).2.2.1

@[simp] theorem startOnRi_levels (s : State) : (startOnRi s).levels = s.levels := (startOnRi_keeps s).2.2.2.1

@[simp] theorem startOnRi_drive (s : State) : (startOnRi s).drive = s.drive := (startOnRi_keeps s).2.2.2.2.1

@[simp] theorem startOnRi_diag (s : State) : (startOnRi s).diag = s.diag := (startOnRi_keeps s).2.2.2.2.2.1

@[simp] theorem startOnRi_thermal (s : State) : (startOnRi s).thermal = s.thermal := (startOnRi_keeps s).2.2.2.2.2.2.1

@[simp] theorem startOnRi_supply (s : State) : (startOnRi s).supply = s.supply := (startOnRi_keeps s).2.2.2.2.2.2.2.1

@[simp] theorem startOnRi_watch (s : State) : (startOnRi s).watch = s.watch := (startOnRi_keeps s).2.2.2.2.2.2.2.2.1

@[simp] theorem startOnRi_snap (s : State) : (startOnRi s).snap = s.snap := (startOnRi_keeps s).2.2.2.2.2.2.2.2.2.1

@[simp] theorem startOnRi_pins (s : State) : (startOnRi s).pins = s.pins := (startOnRi_keeps s).2.2.2.2.2.2.2.2.2.2.1

@[simp] theorem startOnRi_freeUses (s : State) : (startOnRi s).freeUses = s.freeUses := (startOnRi_keeps s).2.2.2.2.2.2.2.2.2.2.2.1

@[simp] theorem startOnRi_pending (s : State) : (startOnRi s).pending = s.pending := (startOnRi_keeps s).2.2.2.2.2.2.2.2.2.2.2.2

/-! ### endOnRi -/

theorem endOnRi_keeps (ws : List Word) (s : State) :
    (endOnRi ws s).tables = s.tables ∧ (endOnRi ws s).parcels = s.parcels ∧ (endOnRi ws s).levels = s.levels ∧ (endOnRi ws s).drive = s.drive ∧ (endOnRi ws s).diag = s.diag ∧ (endOnRi ws s).thermal = s.thermal ∧ (endOnRi ws s).supply = s.supply ∧ (endOnRi ws s).watch = s.watch ∧ (endOnRi ws s).snap = s.snap ∧ (endOnRi ws s).pins = s.pins ∧ (endOnRi ws s).freeUses = s.freeUses ∧ (endOnRi ws s).pending = s.pending := by
  unfold endOnRi; (repeat' split) <;> simp

@[simp] theorem endOnRi_tables (ws : List Word) (s : State) : (endOnRi ws s).tables = s.tables := (endOnRi_keeps ws s).1

@[simp] theorem endOnRi_parcels (ws : List Word) (s : State) : (endOnRi ws s).parcels = s.parcels := (endOnRi_keeps ws s).2.1

@[simp] theorem endOnRi_levels (ws : List Word) (s : State) : (endOnRi ws s).levels = s.levels := (endOnRi_keeps ws s).2.2.1

@[simp] theorem endOnRi_drive (ws : List Word) (s : State) : (endOnRi ws s).drive = s.drive := (endOnRi_keeps ws s).2.2.2.1

@[simp] theorem endOnRi_diag (ws : List Word) (s : State) : (endOnRi ws s).diag = s.diag := (endOnRi_keeps ws s).2.2.2.2.1

@[simp] theorem endOnRi_thermal (ws : List Word) (s : State) : (endOnRi ws s).thermal = s.thermal := (endOnRi_keeps ws s).2.2.2.2.2.1

@[simp] theorem endOnRi_supply (ws : List Word) (s : State) : (endOnRi ws s).supply = s.supply := (endOnRi_keeps ws s).2.2.2.2.2.2.1

@[simp] theorem endOnRi_watch (ws : List Word) (s : State) : (endOnRi ws s).watch = s.watch := (endOnRi_keeps ws s).2.2.2.2.2.2.2.1

@[simp] theorem endOnRi_snap (ws : List Word) (s : State) : (endOnRi ws s).snap = s.snap := (endOnRi_keeps ws s).2.2.2.2.2.2.2.2.1

@[simp] theorem endOnRi_pins (ws : List Word) (s : State) : (endOnRi ws s).pins = s.pins := (endOnRi_keeps ws s).2.2.2.2.2.2.2.2.2.1

@[simp] theorem endOnRi_freeUses (ws : List Word) (s : State) : (endOnRi ws s).freeUses = s.freeUses := (endOnRi_keeps ws s).2.2.2.2.2.2.2.2.2.2.1

@[simp] theorem endOnRi_pending (ws : List Word) (s : State) : (endOnRi ws s).pending = s.pending := (endOnRi_keeps ws s).2.2.2.2.2.2.2.2.2.2.2

/-! ### startTransmission -/

theorem startTransmission_keeps (s : State) :
    (startTransmission s).tables = s.tables ∧ (startTransmission s).parcels = s.parcels ∧ (startTransmission s).levels = s.levels ∧ (startTransmission s).drive = s.drive ∧ (startTransmission s).thermal = s.thermal ∧ (startTransmission s).supply = s.supply ∧ (startTransmission s).watch = s.watch ∧ (startTransmission s).snap = s.snap ∧ (startTransmission s).pins = s.pins ∧ (startTransmission s).freeUses = s.freeUses ∧ (startTransmission s).pending = s.pending := by
  unfold startTransmission; (repeat' split) <;> simp

@[simp] theorem startTransmission_tables (s : State) : (startTransmission s).tables = s.tables := (startTransmission_keeps s).1

@[simp] theorem startTransmission_parcels (s : State) : (startTransmission s).parcels = s.parcels := (startTransmission_keeps s).2.1

@[simp] theorem startTransmission_levels (s : State) : (startTransmission s).levels = s.levels := (startTransmission_keeps s).2.2.1

@[simp] theorem startTransmission_drive (s : State) : (startTransmission s).drive = s.drive := (startTransmission_keeps s).2.2.2.1

@[simp] theorem startTransmission_thermal (s : State) : (startTransmission s).thermal = s.thermal := (startTransmission_keeps s).2.2.2.2.1

@[simp] theorem startTransmission_supply (s : State) : (startTransmission s).supply = s.supply := (startTransmission_keeps s).2.2.2.2.2.1

@[simp] theorem startTransmission_watch (s : State) : (startTransmission s).watch = s.watch := (startTransmission_keeps s).2.2.2.2.2.2.1

@[simp] theorem startTransmission_snap (s : State) : (startTransmission s).snap = s.snap := (startTransmission_keeps s).2.2.2.2.2.2.2.1

@[simp] theorem startTransmission_pins (s : State) : (startTransmission s).pins = s.pins := (startTransmission_keeps s).2.2.2.2.2.2.2.2.1

@[simp] theorem startTransmission_freeUses (s : State) : (startTransmission s).freeUses = s.freeUses := (startTransmission_keeps s).2.2.2.2.2.2.2.2.2.1

@[simp] theorem startTransmission_pending (s : State) : (startTransmission s).pending = s.pending := (startTransmission_keeps s).2.2.2.2.2.2.2.2.2.2

/-! ### endReset -/

theorem endReset_keeps (s : State) :
    (endReset s).tables = s.tables ∧ (endReset s).levels = s.levels ∧ (endReset s).diag = s.diag ∧ (endReset s).thermal = s.thermal ∧ (endReset s).supply = s.supply ∧ (endReset s).watch = s.watch ∧ (endReset s).ret = s.ret ∧ (endReset s).snap = s.snap ∧ (endReset s).freeUses = s.freeUses ∧ (endReset s).pending = s.pending := by
  unfold endReset; (repeat' split) <;> simp

@[simp] theorem endReset_tables (s : State) : (endReset s).tables = s.tables := (endReset_keeps s).1

@[simp] theorem endReset_levels (s : State) : (endReset s).levels = s.levels := (endReset_keeps s).2.1

@[simp] theorem endReset_diag (s : State) : (endReset s).diag = s.diag := (endReset_keeps s).2.2.1

@[simp] theorem endReset_thermal (s : State) : (endReset s).thermal = s.thermal := (endReset_keeps s).2.2.2.1

@[simp] theorem endReset_supply (s : State) : (endReset s).supply = s.supply := (endReset_keeps s).2.2.2.2.1

@[simp] theorem endReset_watch (s : State) : (endReset s).watch = s.watch := (endReset_keeps s).2.2.2.2.2.1

@[simp] theorem endReset_ret (s : State) : (endReset s).ret = s.ret := (endReset_keeps s).2.2.2.2.2.2.1

@[simp] theorem endReset_snap (s : State) : (endReset s).snap = s.snap := (endReset_keeps s).2.2.2.2.2.2.2.1

@[simp] theorem endReset_freeUses (s : State) : (endReset s).freeUses = s.freeUses := (endReset_keeps s).2.2.2.2.2.2.2.2.1

@[simp] theorem endReset_pending (s : State) : (endReset s).pending = s.pending := (endReset_keeps s).2.2.2.2.2.2.2.2.2

/-! ### releaseLines -/

theorem releaseLines_keeps (p : Pins) (s : State) :
    (releaseLines p s).link = s.link ∧ (releaseLines p s).tables = s.tables ∧ (releaseLines p s).parcels = s.parcels ∧ (releaseLines p s).levels = s.levels ∧ (releaseLines p s).drive = s.drive ∧ (releaseLines p s).diag = s.diag ∧ (releaseLines p s).thermal = s.thermal ∧ (releaseLines p s).supply = s.supply ∧ (releaseLines p s).watch = s.watch ∧ (releaseLines p s).ret = s.ret ∧ (releaseLines p s).snap = s.snap ∧ (releaseLines p s).freeUses = s.freeUses ∧ (releaseLines p s).pending = s.pending := by
  unfold releaseLines; (repeat' split) <;> simp

@[simp] theorem releaseLines_link (p : Pins) (s : State) : (releaseLines p s).link = s.link := (releaseLines_keeps p s).1

@[simp] theorem releaseLines_tables (p : Pins) (s : State) : (releaseLines p s).tables = s.tables := (releaseLines_keeps p s).2.1

@[simp] theorem releaseLines_parcels (p : Pins) (s : State) : (releaseLines p s).parcels = s.parcels := (releaseLines_keeps p s).2.2.1

@[simp] theorem releaseLines_levels (p : Pins) (s : State) : (releaseLines p s).levels = s.levels := (releaseLines_keeps p s).2.2.2.1

@[simp] theorem releaseLines_drive (p : Pins) (s : State) : (releaseLines p s).drive = s.drive := (releaseLines_keeps p s).2.2.2.2.1

@[simp] theorem releaseLines_diag (p : Pins) (s : State) : (releaseLines p s).diag = s.diag := (releaseLines_keeps p s).2.2.2.2.2.1

@[simp] theorem releaseLines_thermal (p : Pins) (s : State) : (releaseLines p s).thermal = s.thermal := (releaseLines_keeps p s).2.2.2.2.2.2.1

@[simp] theorem releaseLines_supply (p : Pins) (s : State) : (releaseLines p s).supply = s.supply := (releaseLines_keeps p s).2.2.2.2.2.2.2.1

@[simp] theorem releaseLines_watch (p : Pins) (s : State) : (releaseLines p s).watch = s.watch := (releaseLines_keeps p s).2.2.2.2.2.2.2.2.1

@[simp] theorem releaseLines_ret (p : Pins) (s : State) : (releaseLines p s).ret = s.ret := (releaseLines_keeps p s).2.2.2.2.2.2.2.2.2.1

@[simp] theorem releaseLines_snap (p : Pins) (s : State) : (releaseLines p s).snap = s.snap := (releaseLines_keeps p s).2.2.2.2.2.2.2.2.2.2.1

@[simp] theorem releaseLines_freeUses (p : Pins) (s : State) : (releaseLines p s).freeUses = s.freeUses := (releaseLines_keeps p s).2.2.2.2.2.2.2.2.2.2.2.1

@[simp] theorem releaseLines_pending (p : Pins) (s : State) : (releaseLines p s).pending = s.pending := (releaseLines_keeps p s).2.2.2.2.2.2.2.2.2.2.2.2

end Sys2Proof.Machine
end

