-- ==== Sys2Proof/Laws/Joining.lean ====
section
/-! SUPPORT. What a shared operation does, said once in the words of the statements: sending on, closing, the flow symbol
between sweeps, the joining of notices, and the flush of the local reply queue. -/

namespace Sys2Proof.Machine

open Sys2Proof Sys2Proof.Safety

/-! ### The DO queue -/

/-- A word sent in a sweep joins the queue and the outbound check, or spoils the framing (R23, R32). -/
theorem sendWord_sentOn {l : Link} (h : l.rx.inFlight = true) (w : Word) : l.sendWord w = sentOn l w := by
  rcases sendWord_cases w l with ⟨hl, e⟩ | ⟨hl, e⟩
  · rw [e, sentOn, if_pos hl]
  · rw [e, sentOn, if_neg (by omega)]
    simp [h]

/-- A symbol outside a sweep joins the queue or is gone (R23, R45). -/
theorem push_queued {l : Link} (h : l.rx.inFlight = false) (x : Symbol) : l.push x = queued l [x] := by
  rcases push_cases x l with ⟨hl, e⟩ | ⟨hl, e⟩
  · have : 16 - l.doQueue.length = (15 - l.doQueue.length) + 1 := by omega
    rw [e, queued, this]
    simp
  · have : 16 - l.doQueue.length = 0 := by omega
    rw [e, queued, this]
    simp [h]

/-- A symbol joins after those that have joined. -/
theorem push_after {l m : Link} {xs : List Symbol} {f : Bool} (hr : l.rx.inFlight = true) (x : Symbol)
    (h : m = { queued l xs with framingExact := f && decide (l.doQueue.length + xs.length ≤ 16) }) :
    m.push x = { queued l (xs ++ [x]) with framingExact := f && decide (l.doQueue.length + (xs.length + 1) ≤ 16) } := by
  have hm : m.rx = l.rx := by rw [h]; rfl
  have hq : m.doQueue = l.doQueue ++ xs.take (16 - l.doQueue.length) := by rw [h]; rfl
  have hf : m.framingExact = (f && decide (l.doQueue.length + xs.length ≤ 16)) := by rw [h]
  rcases push_cases x m with ⟨hl, e⟩ | ⟨hl, e⟩
  · rw [hq, List.length_append, List.length_take] at hl
    have h1 : xs.length < 16 - l.doQueue.length := by omega
    have h3 : l.doQueue.length + xs.length ≤ 16 := by omega
    have h4 : l.doQueue.length + (xs.length + 1) ≤ 16 := by omega
    have h2 : xs.take (16 - l.doQueue.length) ++ [x] = (xs ++ [x]).take (16 - l.doQueue.length) := by
      rw [List.take_of_length_le h1.le, List.take_of_length_le (by simp; omega)]
    rw [e, h]
    simp [queued, h2, h3, h4]
  · rw [hq, List.length_append, List.length_take] at hl
    have h4 : ¬ l.doQueue.length + (xs.length + 1) ≤ 16 := by omega
    have h2 : (xs ++ [x]).take (16 - l.doQueue.length) = xs.take (16 - l.doQueue.length) :=
      List.take_append_of_le_length (by omega)
    rw [e, h]
    simp [queued, h2, h4, hr]

/-- A symbol of a sweep joins the queue, or is dropped and spoils the framing (R23). -/
theorem push_first {l : Link} (h : l.rx.inFlight = true) (x : Symbol) :
    l.push x = { queued l [x] with framingExact := l.framingExact && decide (l.doQueue.length + 1 ≤ 16) } := by
  rcases push_cases x l with ⟨hl, e⟩ | ⟨hl, e⟩
  · have h1 : 16 - l.doQueue.length = (15 - l.doQueue.length) + 1 := by omega
    have h2 : l.doQueue.length + 1 ≤ 16 := hl
    rw [e, queued, h1]
    simp [h2]
  · have h1 : 16 - l.doQueue.length = 0 := by omega
    have h2 : ¬ l.doQueue.length + 1 ≤ 16 := by omega
    rw [e, queued, h1]
    simp [h, h2]

/-- A closing puts check word, mark, END and the flow symbol into the queue, as far as it has room (R23, R28, R45). -/
theorem close_closedWith {l : Link} (h : l.rx.inFlight = true) (m : Word) (f : Flow) :
    l.close m f = closedWith m f l := by
  have h1 := push_first h (.word l.outCrc)
  have h2 := push_after (xs := [.word l.outCrc]) (f := l.framingExact) h (.word m) h1
  have h3 := push_after (xs := [.word l.outCrc] ++ [.word m]) (f := l.framingExact) h .endSym h2
  exact push_after (xs := [.word l.outCrc] ++ [.word m] ++ [.endSym]) (f := l.framingExact) h (.flow f) h3

/-- A word taken and sent on in a sweep, with the next state of the receiver (R31, R32). -/
theorem feed_send_enter {l : Link} (h : l.rx.inFlight = true) (a b : Word) (r : Rx) :
    ((l.feedIn a).sendWord b).enter r = { sentOn l b with rx := r, inCrc := crcWord l.inCrc a } := by
  rw [sendWord_sentOn (by exact h)]
  unfold sentOn Link.feedIn Link.enter
  simp only
  split <;> rfl

/-- START joins if the queue has room (R25). -/
theorem begin_queued (l : Link) : l.begin = { queued l [.startSym] with
    rx := .header [], inCrc := 0xFFFF, outCrc := 0xFFFF, voidMark := false
    framingExact := decide (l.doQueue.length < 16) } := by
  unfold Link.begin
  rw [push_first (by rfl)]
  simp only [Bool.true_and]
  rfl

/-- A closing and the START of the next sweep join as far as the queue has room (R25, R39). -/
theorem close_begin {l : Link} (h : l.rx.inFlight = true) (m : Word) (f : Flow) :
    (l.close m f).begin = { queued l [.word l.outCrc, .word m, .endSym, .flow f, .startSym] with
      rx := .header [], inCrc := 0xFFFF, outCrc := 0xFFFF, voidMark := false
      framingExact := decide (l.doQueue.length + 5 ≤ 16) } := by
  have h4 := close_closedWith h m f
  let a : Link := { l with
    inCrc := crcInit, outCrc := crcInit, voidMark := false, framingExact := true, rx := .header [] }
  have e : ({ l.close m f with
      inCrc := crcInit, outCrc := crcInit, voidMark := false, framingExact := true, rx := .header [] } : Link) =
      { queued a [.word l.outCrc, .word m, .endSym, .flow f] with framingExact := true } := by
    rw [h4]; rfl
  have hq : a.doQueue = l.doQueue := rfl
  unfold Link.begin
  simp only
  rw [e]
  rcases push_cases .startSym { queued a [.word l.outCrc, .word m, .endSym, .flow f] with framingExact := true } with
    ⟨hl, e⟩ | ⟨hl, e⟩
  · simp only [queued, List.length_append, List.length_take, List.length_cons, List.length_nil, hq] at hl
    have h1 : l.doQueue.length + 5 ≤ 16 := by omega
    have h3 : [Symbol.word l.outCrc, .word m, .endSym, .flow f].take (16 - l.doQueue.length) ++ [.startSym] =
        [Symbol.word l.outCrc, .word m, .endSym, .flow f, .startSym].take (16 - l.doQueue.length) := by
      rw [List.take_of_length_le (by simp; omega), List.take_of_length_le (by simp; omega)]
      rfl
    rw [e]
    simp [queued, h1, ← h3, a, crcInit]
  · simp only [queued, List.length_append, List.length_take, List.length_cons, List.length_nil, hq] at hl
    have h1 : ¬ l.doQueue.length + 5 ≤ 16 := by omega
    have h3 : [Symbol.word l.outCrc, .word m, .endSym, .flow f, .startSym].take (16 - l.doQueue.length) =
        [Symbol.word l.outCrc, .word m, .endSym, .flow f].take (16 - l.doQueue.length) :=
      List.take_append_of_le_length (l₁ := [Symbol.word l.outCrc, .word m, .endSym, .flow f]) (l₂ := [.startSym])
        (by simp; omega)
    rw [e]
    simp [queued, h1, h3, a, crcInit, Rx.inFlight]

/-! ### Notices -/

/-- Whether a notice of kind `k` joins now (R137). -/
theorem eligible_iff (s : State) (k : NoticeKind) : noticeEligible s k =
    (decide (s.link.address ≠ 255) && decide (s.ret.queue.length < 6) &&
      (noticePending s k && s.ret.queue.all fun m => m.noticeKind != some k)) := by
  have : (!s.ret.queue.any fun m => m.noticeKind == some k) = s.ret.queue.all fun m => m.noticeKind != some k := by
    simp [List.not_any_eq_all_not, bne]
  unfold noticeEligible noticeLimit
  rw [this]
  by_cases h : s.link.address = 255 <;> by_cases h6 : s.ret.queue.length < 6 <;>
    cases noticePending s k <;> simp [h, h6, bne, Bool.and_comm, Bool.beq_eq_decide_eq]

/-- The body of a notice is what the statements say of it (R139, R140, R212). -/
theorem noticeBody_says (s : State) (k : NoticeKind) : noticeBody s k = noticeSays s k := by
  cases k
  · rfl
  · rfl
  · simp only [noticeBody, noticeSays]
    cases s.supply.state <;> rfl
  · rfl

/-- The changed set after the notices of some kinds have joined. -/
def changedAfter (s : State) (ks : List NoticeKind) : Vector Bool 63 :=
  Vector.ofFn fun i => s.diag.changed[i] && !(ks.contains .fault && (listedRecords s).contains i)

/-- The return lane after the notices of some kinds have joined. -/
def laneAfter (s : State) (ks : List NoticeKind) : Ret :=
  { s.ret with
    queue := s.ret.queue ++ noticesInOrder s ks
    lost := s.ret.lost && ks.isEmpty
    thermalFlag := s.ret.thermalFlag && !ks.contains .thermal
    supplyFlag := s.ret.supplyFlag && !ks.contains .supply
    linkFlag := s.ret.linkFlag && !ks.contains .link }

/-- `s` after the notices of some kinds have joined. -/
def joinedWith (s : State) (ks : List NoticeKind) : State :=
  { s with diag := { s.diag with changed := changedAfter s ks }, ret := laneAfter s ks }

theorem noticesJoined_eq (s : State) : noticesJoined s = joinedWith s (joiningKinds s) := rfl

theorem noticesInOrder_append (s : State) (ks : List NoticeKind) (k : NoticeKind) :
    noticesInOrder s (ks ++ [k]) =
      noticesInOrder s ks ++ [{ noticeMsg s k (noticeSays s k) with lost := s.ret.lost && ks.isEmpty }] := by
  cases ks <;> simp [noticesInOrder, noticeMsg]

theorem noticesInOrder_length (s : State) (ks : List NoticeKind) : (noticesInOrder s ks).length = ks.length := by
  cases ks <;> simp [noticesInOrder]

theorem noticesInOrder_kinds (s : State) (ks : List NoticeKind) :
    (noticesInOrder s ks).map Msg.noticeKind = ks.map some := by
  cases ks <;> simp [noticesInOrder, noticeMsg, Msg.noticeKind, Function.comp_def]

/-- Without a FAULT notice among them the changed set stays. -/
theorem changedAfter_same (s : State) (ks : List NoticeKind) (h : NoticeKind.fault ∉ ks) :
    changedAfter s ks = s.diag.changed := by
  ext i hi
  simp [changedAfter, h]

theorem changedAfter_append (s : State) (ks : List NoticeKind) (k : NoticeKind) (h : k ≠ .fault) :
    changedAfter s (ks ++ [k]) = changedAfter s ks := by
  ext i hi
  simp [changedAfter, Ne.symm h]

theorem changedAfter_fault (s : State) (ks : List NoticeKind) (d : Diag) (h : d.changed = s.diag.changed) :
    changedAfter s (ks ++ [.fault]) = Vector.ofFn fun i => d.changed[i] && !d.listed.contains i := by
  ext i hi
  simp [changedAfter, listedRecords, Diag.listed, Diag.changedList, h]

/-- Whether a kind waits with none of it queued. -/
def waits (s : State) (k : NoticeKind) : Bool := noticePending s k && s.ret.queue.all fun m => m.noticeKind != some k

theorem joinedWith_pending (s : State) (ks : List NoticeKind) (k : NoticeKind) (h : k ∉ ks) :
    noticePending (joinedWith s ks) k = noticePending s k := by
  cases k
  · simp only [noticePending, joinedWith, changedAfter_same s ks h]
  · simp [noticePending, joinedWith, laneAfter, h]
  · simp [noticePending, joinedWith, laneAfter, h]
  · simp [noticePending, joinedWith, laneAfter, h]

theorem joinedWith_says (s : State) (ks : List NoticeKind) (k : NoticeKind) (h : k ∉ ks) :
    noticeSays (joinedWith s ks) k = noticeSays s k := by
  cases k
  · simp only [noticeSays, listedRecords, joinedWith, changedAfter_same s ks h]
  · simp only [noticeSays, joinedWith]
  · simp only [noticeSays, joinedWith]
    congr
  · simp only [noticeSays, joinedWith, laneAfter]

theorem joinedWith_waits (s : State) (ks : List NoticeKind) (k : NoticeKind) (h : k ∉ ks) :
    waits (joinedWith s ks) k = waits s k := by
  unfold waits
  rw [joinedWith_pending s ks k h]
  have hm : (noticesInOrder s ks).all (fun m => m.noticeKind != some k) = true := by
    rw [List.all_eq_true]
    intro m hm
    have : m.noticeKind ∈ ks.map some := by
      rw [← noticesInOrder_kinds s ks]
      exact List.mem_map_of_mem hm
    obtain ⟨x, hx, e⟩ := List.mem_map.mp this
    rw [← e]
    simp only [bne_iff_ne, ne_eq, Option.some.injEq]
    rintro rfl
    exact h hx
  simp [joinedWith, laneAfter, List.all_append, hm]

/-- The lane after one more notice. -/
theorem laneAfter_append (s : State) (ks : List NoticeKind) (k : NoticeKind) : laneAfter s (ks ++ [k]) =
    { laneAfter s ks with
      queue := (laneAfter s ks).queue ++
        [{ source := s.link.address, lost := (laneAfter s ks).lost, content := .notice k (noticeSays s k) }]
      lost := false
      thermalFlag := (laneAfter s ks).thermalFlag && k != .thermal
      supplyFlag := (laneAfter s ks).supplyFlag && k != .supply
      linkFlag := (laneAfter s ks).linkFlag && k != .link } := by
  unfold laneAfter
  rw [noticesInOrder_append]
  cases k <;> simp [noticeMsg]

/-- One more notice joins. -/
theorem consume_joined (s : State) (ks : List NoticeKind) (k : NoticeKind) (h : k ∉ ks) :
    joinMsg (.notice k (noticeSays s k)) (consumePending (joinedWith s ks) k) = joinedWith s (ks ++ [k]) := by
  have hr := laneAfter_append s ks k
  cases k
  · have hc := changedAfter_fault s ks { s.diag with changed := changedAfter s ks } (changedAfter_same s ks h)
    simp only [joinedWith, joinMsg, consumePending, hr, hc]
    simp
  · have hc := changedAfter_append s ks .thermal (by decide)
    simp only [joinedWith, joinMsg, consumePending, hr, hc]
    simp
  · have hc := changedAfter_append s ks .supply (by decide)
    simp only [joinedWith, joinMsg, consumePending, hr, hc]
    simp
  · have hc := changedAfter_append s ks .link (by decide)
    simp only [joinedWith, joinMsg, consumePending, hr, hc]
    simp

/-- The kinds that have joined once kind `k` has had its turn (R137). -/
def joinTurn (s : State) (ks : List NoticeKind) (k : NoticeKind) : List NoticeKind :=
  if s.link.address ≠ 255 ∧ waits s k = true ∧ s.ret.queue.length + ks.length < 6 then ks ++ [k] else ks

/-- One kind has its turn after others. -/
theorem joinNotice_joined (s : State) (ks : List NoticeKind) (k : NoticeKind) (h : k ∉ ks) :
    joinNotice k (joinedWith s ks) = joinedWith s (joinTurn s ks k) := by
  have he : noticeEligible (joinedWith s ks) k = true ↔
      s.link.address ≠ 255 ∧ waits s k = true ∧ s.ret.queue.length + ks.length < 6 := by
    rw [eligible_iff, ← waits, joinedWith_waits s ks k h]
    have : (joinedWith s ks).ret.queue.length = s.ret.queue.length + ks.length := by
      simp [joinedWith, laneAfter, noticesInOrder_length]
    rw [this]
    simp only [Bool.and_eq_true, decide_eq_true_eq]
    show (s.link.address ≠ 255 ∧ _) ∧ _ ↔ _
    tauto
  unfold joinTurn
  rcases joinNotice_cases k (joinedWith s ks) with ⟨hf, e⟩ | ⟨ht, e⟩
  · rw [e, if_neg (fun hc => by simp [he.mpr hc] at hf)]
  · rw [e, if_pos (he.mp ht), noticeBody_says, joinedWith_says s ks k h, consume_joined s ks k h]

/-- The turns in order leave the waiting kinds, as many as find room. -/
theorem foldl_joinTurn (s : State) (hs : s.link.address ≠ 255) (l ks : List NoticeKind) :
    l.foldl (joinTurn s) ks = ks ++ (l.filter (waits s)).take (6 - s.ret.queue.length - ks.length) := by
  induction l generalizing ks with
  | nil => simp
  | cons k rest ih =>
    rw [List.foldl_cons, ih]
    unfold joinTurn
    by_cases hw : waits s k = true
    · by_cases hq : s.ret.queue.length + ks.length < 6
      · have h1 : 6 - s.ret.queue.length - ks.length = (6 - s.ret.queue.length - (ks.length + 1)) + 1 := by omega
        have h2 : s.link.address ≠ 255 ∧ waits s k = true ∧ s.ret.queue.length + ks.length < 6 := ⟨hs, hw, hq⟩
        rw [if_pos h2]
        simp [hw, h1]
      · have h1 : 6 - s.ret.queue.length - ks.length = 0 := by omega
        simp [hq, h1]
    · simp [hw]

/-- What the joining of notices does: every kind that can join does, in the order of R138. -/
theorem joinNotices_eq (s : State) : joinNotices s = noticesJoined s := by
  have h0 : s = joinedWith s [] := by
    have h1 := changedAfter_same s [] (by simp)
    have h2 : laneAfter s [] = s.ret := by simp [laneAfter, noticesInOrder]
    rw [joinedWith, h1, h2]
  have hm : ∀ ks k x, x ∉ ks → x ≠ k → x ∉ joinTurn s ks k := by
    intro ks k x hx hk
    unfold joinTurn
    split <;> simp [hx, hk]
  have hj : joinNotices s = joinedWith s ([NoticeKind.fault, .thermal, .supply, .link].foldl (joinTurn s) []) := by
    unfold joinNotices
    conv_lhs => rw [h0]
    rw [joinNotice_joined s [] .fault (by simp), joinNotice_joined s _ .thermal (by apply hm <;> simp),
      joinNotice_joined s _ .supply (hm _ _ _ (hm _ _ _ (by simp) (by decide)) (by decide)),
      joinNotice_joined s _ .link (hm _ _ _ (hm _ _ _ (hm _ _ _ (by simp) (by decide)) (by decide)) (by decide))]
    rfl
  rw [hj, noticesJoined_eq]
  by_cases ha : s.link.address = 255
  · have : ∀ ks k, joinTurn s ks k = ks := fun ks k => by simp [joinTurn, ha]
    simp [joiningKinds, ha, this]
  · rw [foldl_joinTurn s ha]
    simp only [joiningKinds, if_neg ha, List.nil_append, List.length_nil, Nat.sub_zero]
    rfl

/-! ### The flush -/

theorem reraise_pending_iff (s : State) (m : Msg) (k : NoticeKind) (h : k ≠ .fault) :
    noticePending (reraise s m) k = true ↔ noticePending s k = true ∨ m.noticeKind = some k := by
  rcases m with ⟨_, _, _ | ⟨x, _⟩⟩
  · simp [reraise, Msg.noticeKind]
  · cases k <;> cases x <;> simp_all [reraise, Msg.noticeKind, noticePending]

theorem reraise_changed_iff (s : State) (m : Msg) (i : Fin 63) :
    (reraise s m).diag.changed[i] = true ↔ s.diag.changed[i] = true ∨ ListsRecord [m] i := by
  rcases m with ⟨_, _, _ | ⟨x, _⟩⟩
  · simp [reraise, ListsRecord]
  · cases x <;> simp [reraise, ListsRecord, entryRecord, bitsAt]

/-- The flush raises again exactly the flags that were set or had their notice in the queue (R148). -/
theorem flushQueue_pending_iff (s : State) (k : NoticeKind) (h : k ≠ .fault) :
    noticePending (flushQueue s) k = true ↔ noticePending s k = true ∨ ∃ m ∈ s.ret.queue, m.noticeKind = some k := by
  have : ∀ (q : List Msg) (s : State), noticePending (q.foldl reraise s) k = true ↔
      noticePending s k = true ∨ ∃ m ∈ q, m.noticeKind = some k := by
    intro q
    induction q with
    | nil => simp
    | cons m rest ih =>
      intro s
      rw [List.foldl_cons, ih, reraise_pending_iff s m k h]
      simp only [List.mem_cons, exists_eq_or_imp]
      tauto
  rw [← this s.ret.queue s]
  cases k <;> exact Iff.rfl

/-- The flush puts back exactly the records that a FAULT notice of the queue listed (R148). -/
theorem flushQueue_changed_iff (s : State) (i : Fin 63) :
    (flushQueue s).diag.changed[i] = true ↔ s.diag.changed[i] = true ∨ ListsRecord s.ret.queue i := by
  have : ∀ (q : List Msg) (s : State), (q.foldl reraise s).diag.changed[i] = true ↔
      s.diag.changed[i] = true ∨ ListsRecord q i := by
    intro q
    induction q with
    | nil => simp [ListsRecord]
    | cons m rest ih =>
      intro s
      rw [List.foldl_cons, ih, reraise_changed_iff s m i]
      simp [ListsRecord, or_assoc]
  exact this s.ret.queue s

end Sys2Proof.Machine
end

