-- ==== Sys2Proof/Laws/Parcels.lean ====
section
/-! SUPPORT. The parcel engine and the table store: one lemma per shared operation, in the words of Safety.lean. -/

namespace Sys2Proof.Machine

open Sys2Proof Sys2Proof.Safety

/-! ### Fields -/

/-- The bits of a field are its quotient and remainder. -/
theorem bitsAt_eq (w : Word) (lo n : Nat) : bitsAt w lo n = w.toNat / 2 ^ lo % 2 ^ n := by
  simp [bitsAt, BitVec.extractLsb'_toNat, Nat.shiftRight_eq_div_pow]

/-- The section that body word 0 names (R212). -/
theorem sectionOf_value (w : Word) : (sectionOf w).value = w.toNat / 16384 := by
  have h := w.isLt
  have hlt : w.toNat / 16384 < 4 := by omega
  unfold sectionOf
  rw [bitsAt_eq]
  simp only [Nat.reducePow, Nat.mod_eq_of_lt hlt]
  generalize w.toNat / 16384 = n at *
  split <;> simp_all [SecCode.value]
  omega

/-- The sections marked in a section-set word (R85, R212). -/
theorem sectionSet_eq (w : Word) : sectionSet w = sectionsNamed w := by
  simp only [sectionSet, sectionOrder, sectionsNamed, List.filter, SecCode.value]
  cases w.getLsbD 0 <;> cases w.getLsbD 1 <;> cases w.getLsbD 2 <;> cases w.getLsbD 3 <;> rfl

/-! ### Execution of the parcel at the head -/

/-- A recorded kind writes the history as R124 says. -/
theorem addHistory_eq (h : List HistEntry) (k : ParcelKind) (tag : Byte) (code : ResultCode)
    (hr : k.recorded = true) : addHistory k tag code h = historyAfter h k tag code := by
  unfold addHistory historyAfter
  simp only [hr, Bool.true_eq_false, or_false, historyPlaces]
  by_cases ht : tag = 0
  · simp [ht]
  · simp only [ht, if_false]
    cases ha : h.any fun x => x.tag == tag with
    | true =>
      have hne : (h.filter fun e => e.tag != tag).length ≠ h.length := by
        intro hc
        rw [List.length_filter_eq_length_iff] at hc
        simp only [List.any_eq_true] at ha
        obtain ⟨x, hx, hxe⟩ := ha
        have := hc x hx
        simp at hxe this
        exact this hxe
      simp [hne]
    | false =>
      have heq : (h.filter fun e => e.tag != tag) = h := by
        rw [List.filter_eq_self]
        intro x hx
        rw [List.any_eq_false] at ha
        simpa using ha x hx
      simp only [heq, Bool.false_eq_true, if_false, true_and]
      by_cases hl : 4 ≤ h.length <;> simp [hl]

/-- A parcel that passes steps 1 to 4 of R118 is executed. -/
theorem runParcel_addressed {s : State} {k : ParcelKind} {p : Parcel} {rest : List Parcel}
    (h : AddressedTurn s k p rest) (rule : ParcelRule) :
    whenUp s (runParcel k rule) = .next (executeAddressed k rule p (takeParcel rest s)) := by
  have u : s.pins.phase = .up := h.turn.up
  simp [whenUp, u, runParcel, h.turn.head, h.turn.executable, h.kind, h.addressed, addressedSteps, queueCapacity,
    h.slot, h.suits, h.fresh]

/-- A broadcast parcel of an executed kind takes its rule's effect (R121). -/
theorem runParcel_broadcast {s : State} {k : ParcelKind} {p : Parcel} {rest : List Parcel}
    (h : BroadcastTurn s k p rest) (rule : ParcelRule) :
    whenUp s (runParcel k rule) =
      .next (if k.runsBroadcast = true then (rule p (takeParcel rest s)).1 else takeParcel rest s) := by
  have u : s.pins.phase = .up := h.turn.up
  simp [whenUp, u, runParcel, h.turn.head, h.turn.executable, h.kind, h.broadcast, broadcastSteps, h.suits]

/-- What a rule leaves alone, and what neither the buffer, the history, the queue nor the LOST mark is, the execution of a
parcel leaves alone. -/
theorem runParcel_frame {α : Type} (view : State → α) (k : ParcelKind) (rule : ParcelRule) (s : State)
    (hp : ∀ x r, view { x with parcels := r } = view x) (hj : ∀ x c, view (joinMsg c x) = view x)
    (hl : ∀ x, view (loseMessage x) = view x) (hr : ∀ p x, view (rule p x).1 = view x) :
    view (runParcel k rule s) = view s := by
  unfold runParcel
  split
  · rfl
  · split
    · split
      · unfold addressedSteps
        split
        · rw [hl]
          exact hp _ _
        · split
          · rw [reply, hj]
            exact hp _ _
          · split
            · rw [reply, hj]
              exact hp _ _
            · simp only [executeAddressed, reply]
              rw [hj, hp, hr]
              exact hp _ _
      · unfold broadcastSteps
        split
        · rw [hr]
          exact hp _ _
        · exact hp _ _
    · rfl

/-! ### Validity and refusals of table parcels -/

theorem firstOffending_eq (t : Tables) (c : SecCode) :
    t.firstOffending c = (List.range c.size).find? (offendsAt t c) := by cases c <;> rfl

/-- No word offends exactly when the section passes the checks of a COMMIT (R90, R99). -/
theorem firstOffending_none {t : Tables} {c : SecCode} (h1 : t.frozen c = false) (h2 : t.pendingMark c = false) :
    t.firstOffending c = none ↔ PassesCommit t c := by
  rw [firstOffending_eq]
  unfold PassesCommit
  cases c <;>
    simp [h1, h2, List.find?_eq_none, offendsAt, MapValid, CurvesValid, DriveValid, PolicyValid, SecCode.size]

/-- The offending word found is the first (R90). -/
theorem firstOffending_some {t : Tables} {c : SecCode} {o : Nat} (h : t.firstOffending c = some o) :
    o < c.size ∧ offendsAt t c o = true ∧ ∀ i, i < o → offendsAt t c i = false := by
  rw [firstOffending_eq, List.find?_range_eq_some] at h
  simp at h
  exact ⟨h.2.1, h.1, h.2.2⟩

/-- A COMMIT is refused by its first section that does not pass, or by none (R99). -/
theorem commitRefusal_cases (t : Tables) (cs : List SecCode) :
    (t.commitRefusal cs = none ∧ ∀ c ∈ cs, PassesCommit t c) ∨
    (∃ pre c post a, cs = pre ++ c :: post ∧ (∀ d ∈ pre, PassesCommit t d) ∧ t.commitRefusal cs = some a ∧
      ((t.frozen c = true ∧ a = ⟨.refusedFrozen, [sectionWord c]⟩) ∨
        (t.frozen c = false ∧ t.pendingMark c = true ∧ a = ⟨.refusedPending, [sectionWord c]⟩) ∨
        (t.frozen c = false ∧ t.pendingMark c = false ∧
          ∃ o, t.firstOffending c = some o ∧ a = ⟨.refusedInvalid, [sectionWord c, wordOf o]⟩))) := by
  induction cs with
  | nil => left; simp [Tables.commitRefusal]
  | cons c cs ih =>
    cases hf : t.frozen c
    · cases hp : t.pendingMark c
      · cases ho : t.firstOffending c with
        | none =>
          have hpc := (firstOffending_none hf hp).mp ho
          rcases ih with ⟨h1, h2⟩ | ⟨pre, d, post, a, h1, h2, h3, h4⟩
          · left
            simp [Tables.commitRefusal, hf, hp, ho, h1, hpc]
            exact h2
          · right
            refine ⟨c :: pre, d, post, a, by simp [h1], ?_, ?_, h4⟩
            · simp [hpc]
              exact h2
            · simp [Tables.commitRefusal, hf, hp, ho, h3]
        | some o =>
          exact .inr ⟨[], c, cs, _, rfl, by simp, by simp [Tables.commitRefusal, hf, hp, ho],
            .inr (.inr ⟨hf, hp, o, ho, rfl⟩)⟩
      · exact .inr ⟨[], c, cs, _, rfl, by simp, by simp [Tables.commitRefusal, hf, hp],
          .inr (.inl ⟨hf, hp, rfl⟩)⟩
    · exact .inr ⟨[], c, cs, _, rfl, by simp, by simp [Tables.commitRefusal, hf], .inl ⟨hf, rfl⟩⟩

/-- A DISCARD is refused by its first section that is frozen or pending, or by none (R98). -/
theorem discardRefusal_cases (t : Tables) (cs : List SecCode) :
    (t.discardRefusal cs = none ∧ ∀ c ∈ cs, t.frozen c = false ∧ t.pendingMark c = false) ∨
    (∃ pre c post a, cs = pre ++ c :: post ∧ (∀ d ∈ pre, t.frozen d = false ∧ t.pendingMark d = false) ∧
      t.discardRefusal cs = some a ∧
      ((t.frozen c = true ∧ a = ⟨.refusedFrozen, [sectionWord c]⟩) ∨
        (t.frozen c = false ∧ t.pendingMark c = true ∧ a = ⟨.refusedPending, [sectionWord c]⟩))) := by
  induction cs with
  | nil => left; simp [Tables.discardRefusal]
  | cons c cs ih =>
    cases hf : t.frozen c
    · cases hp : t.pendingMark c
      · rcases ih with ⟨h1, h2⟩ | ⟨pre, d, post, a, h1, h2, h3, h4⟩
        · left
          simp [Tables.discardRefusal, hf, hp, h1]
          exact h2
        · right
          refine ⟨c :: pre, d, post, a, by simp [h1], ?_, ?_, h4⟩
          · simp [hf, hp]
            exact h2
          · simp [Tables.discardRefusal, hf, hp, h3]
      · exact .inr ⟨[], c, cs, _, rfl, by simp, by simp [Tables.discardRefusal, hf, hp], .inr ⟨hf, hp, rfl⟩⟩
    · exact .inr ⟨[], c, cs, _, rfl, by simp, by simp [Tables.discardRefusal, hf], .inl ⟨hf, rfl⟩⟩

/-! ### Changes of several sections -/

/-- The pending marks of a list of sections set: copies, generations and frozen marks stay (R100). -/
theorem changeEach_accept (cs : List SecCode) (t : Tables) (d : SecCode) :
    SameContent t (t.changeEach cs fun _ x => x.accept) d ∧
      (t.changeEach cs fun _ x => x.accept).frozen d = t.frozen d ∧
      ((t.changeEach cs fun _ x => x.accept).pendingMark d = true ↔ t.pendingMark d = true ∨ d ∈ cs) := by
  unfold Tables.changeEach
  induction cs generalizing t with
  | nil => simp [SameContent]
  | cons c cs ih =>
    have hi := ih (t.change c fun _ x => x.accept)
    have h1 : SameContent t (t.change c fun _ x => x.accept) d ∧
        (t.change c fun _ x => x.accept).frozen d = t.frozen d ∧
        ((t.change c fun _ x => x.accept).pendingMark d = true ↔ t.pendingMark d = true ∨ d = c) := by
      cases c <;> cases d <;>
        simp [SameContent, Tables.change, Tables.copyWords, Tables.gen, Tables.frozen, Tables.pendingMark,
          Section.accept]
    simp only [List.foldl_cons]
    obtain ⟨⟨a1, a2, a3⟩, a4, a5⟩ := hi
    obtain ⟨⟨b1, b2, b3⟩, b4, b5⟩ := h1
    exact ⟨⟨a1.trans b1, a2.trans b2, a3.trans b3⟩, a4.trans b4, by rw [a5, b5]; simp [or_assoc]⟩

/-- The frozen marks of a list of sections set: copies, generations and pending marks stay (R106). -/
theorem changeEach_freeze (cs : List SecCode) (t : Tables) (d : SecCode) :
    SameContent t (t.changeEach cs fun _ x => x.freeze) d ∧
      (t.changeEach cs fun _ x => x.freeze).pendingMark d = t.pendingMark d ∧
      ((t.changeEach cs fun _ x => x.freeze).frozen d = true ↔ t.frozen d = true ∨ d ∈ cs) := by
  unfold Tables.changeEach
  induction cs generalizing t with
  | nil => simp [SameContent]
  | cons c cs ih =>
    have hi := ih (t.change c fun _ x => x.freeze)
    have h1 : SameContent t (t.change c fun _ x => x.freeze) d ∧
        (t.change c fun _ x => x.freeze).pendingMark d = t.pendingMark d ∧
        ((t.change c fun _ x => x.freeze).frozen d = true ↔ t.frozen d = true ∨ d = c) := by
      cases c <;> cases d <;>
        simp [SameContent, Tables.change, Tables.copyWords, Tables.gen, Tables.frozen, Tables.pendingMark,
          Section.freeze]
    simp only [List.foldl_cons]
    obtain ⟨⟨a1, a2, a3⟩, a4, a5⟩ := hi
    obtain ⟨⟨b1, b2, b3⟩, b4, b5⟩ := h1
    exact ⟨⟨a1.trans b1, a2.trans b2, a3.trans b3⟩, a4.trans b4, by rw [a5, b5]; simp [or_assoc]⟩

/-- The shadow copies of a list of sections take their active copies (R98). -/
theorem changeEach_revert (cs : List SecCode) (t : Tables) (d : SecCode) :
    let u := t.changeEach cs fun _ x => x.revert
    u.copyWords d true = t.copyWords d (decide (d ∉ cs)) ∧ u.copyWords d false = t.copyWords d false ∧
      u.gen d = t.gen d ∧ u.frozen d = t.frozen d ∧ u.pendingMark d = t.pendingMark d := by
  unfold Tables.changeEach
  induction cs generalizing t with
  | nil => simp
  | cons c cs ih =>
    have hi := ih (t.change c fun _ x => x.revert)
    have b : (t.change c fun _ x => x.revert).copyWords d true = t.copyWords d (decide (d ≠ c)) ∧
        (t.change c fun _ x => x.revert).copyWords d false = t.copyWords d false ∧
        (t.change c fun _ x => x.revert).gen d = t.gen d ∧
        (t.change c fun _ x => x.revert).frozen d = t.frozen d ∧
        (t.change c fun _ x => x.revert).pendingMark d = t.pendingMark d := by
      cases c <;> cases d <;>
        simp [Tables.change, Section.revert, Tables.copyWords, Tables.gen, Tables.frozen, Tables.pendingMark]
    simp only [List.foldl_cons] at hi ⊢
    obtain ⟨a1, a2, a3, a4, a5⟩ := hi
    obtain ⟨b1, b2, b3, b4, b5⟩ := b
    refine ⟨?_, a2.trans b2, a3.trans b3, a4.trans b4, a5.trans b5⟩
    rw [a1]
    by_cases hd : d ∈ cs
    · simp [hd, b2]
    · by_cases hc : d = c <;> simp [hd, hc] at * <;> simp_all

/-! ### Reading -/

theorem copyWords_length (t : Tables) (c : SecCode) (b : Bool) : (t.copyWords c b).length = c.size := by
  cases c <;> cases b <;> simp [Tables.copyWords, SecCode.size]

/-- The words a READ returns (R97, R207). -/
theorem take_drop_eq (l : List Word) (off n : Nat) (h : off + n ≤ l.length) :
    (l.drop off).take n = (List.range n).map fun i => l.getD (off + i) 0 := by
  apply List.ext_getElem
  · simp; omega
  · intro i h1 h2
    simp at h1 h2
    simp [List.getD_eq_getElem?_getD, show off + i < l.length by omega]

end Sys2Proof.Machine
end

