-- ==== Sys2Proof/Laws/Power.lean ====
section
/-! SUPPORT. The power-on reset: what it leaves, and that its end leaves the reset state. -/

namespace Sys2Proof.Machine

open Sys2Proof

/-- A cycle start takes its values from these five blocks alone (R78). -/
theorem startCycle_drive_congr {s u : State} (h1 : s.tables = u.tables) (h2 : s.watch = u.watch)
    (h3 : s.levels = u.levels) (h4 : s.diag = u.diag) (h5 : s.thermal = u.thermal) :
    (startCycle s).drive = (startCycle u).drive := by
  cases s; cases u
  dsimp only at h1 h2 h3 h4 h5
  subst h1 h2 h3 h4 h5
  rfl

/-- The first cycle start after a power-on reset takes on-time 0, code 0 and the power-on phases (R83). -/
theorem startCycle_reset : (startCycle State.reset).drive = State.reset.drive := by decide +kernel

/-- Every block of a node in power-on reset holds the values of the reset state, but for the cycle that does not run and
the DO queue that is empty (R208). -/
theorem powerOnValues_eq (p : Pins) (s : State) : powerOnValues p s =
    { State.reset with
      link := { State.reset.link with doQueue := [] }
      drive := { State.reset.drive with running := false }
      pins := p
      freeUses := s.freeUses
      pending := s.pending } := by
  simp only [powerOnValues, State.reset]
  congr 2

/-- The end of a reset on power-on values gives the reset state (R208). -/
theorem endReset_powerOnValues (p : Pins) (s : State) : endReset (powerOnValues p s) =
    { State.reset with pins := { p with phase := .up }, freeUses := s.freeUses, pending := s.pending } := by
  have h : (startCycle { powerOnValues p s with pins := { p with phase := .up } }).drive = State.reset.drive :=
    (startCycle_drive_congr (u := State.reset) rfl rfl rfl rfl rfl).trans startCycle_reset
  have e : endReset (powerOnValues p s) =
      { State.reset with
        drive := (startCycle { powerOnValues p s with pins := { p with phase := .up } }).drive
        pins := { p with phase := .up }, freeUses := s.freeUses, pending := s.pending } := by
    simp only [powerOnValues, State.reset, endReset, onLink, Link.push, doCapacity, State.asked, askedFor, startCycle]
    congr 2
  rw [e, h]

end Sys2Proof.Machine
end

