-- ==== Sys2Proof/Laws/Steps.lean ====
section
/-! SUPPORT. Induction over steps, packaged once: an invariant of the node is shown operation by operation. -/

namespace Sys2Proof.Machine

open Sys2Proof

/-- A command that acts only when no reset lasts leaves the node as it is or does its work. -/
theorem whenUp_cases {s t : State} {f : State → State} (h : whenUp s f = .next t) :
    t = s ∨ (s.pins.phase = .up ∧ t = f s) := by
  unfold whenUp at h
  split at h
  · rename_i hu
    exact .inr ⟨hu, by cases h; rfl⟩
  · exact .inl (by cases h; rfl)

/-- The execution of a parcel keeps what its parts keep: taking the parcel, losing a message, replying, the rule, and
the entry in the history. -/
theorem runParcel_keeps {Inv : State → Prop} {k : ParcelKind} {rule : ParcelRule} {s : State} (hs : Inv s)
    (take : ∀ x p rest, Inv x → x.parcels.buffer = p :: rest → p.executable = true → Inv (takeParcel rest x))
    (lose : ∀ x, Inv x → Inv (loseMessage x))
    (rep : ∀ (x : State) p code r b, Inv x → x.ret.queue.length < 8 → Inv (reply p code r b x))
    (apply : ∀ p x, Inv x → Inv (rule p x).1)
    (history : ∀ (x : State) tag code, Inv x →
      Inv { x with parcels := { x.parcels with history := addHistory k tag code x.parcels.history } })
    (queue : ∀ p x, (rule p x).1.ret.queue = x.ret.queue) : Inv (runParcel k rule s) := by
  unfold runParcel
  split
  · exact hs
  · rename_i p rest hb
    split
    · rename_i hx
      have ht := take s p rest hs hb hx.1
      split
      · unfold addressedSteps queueCapacity
        split
        · exact lose _ ht
        · rename_i hq
          split
          · exact rep _ _ _ _ _ ht (by omega)
          · split
            · exact rep _ _ _ _ _ ht (by omega)
            · refine rep _ _ _ _ _ (history _ _ _ (apply _ _ ht)) ?_
              simp only [queue]
              omega
      · unfold broadcastSteps
        split
        · exact apply _ _ ht
        · exact ht
    · exact hs

/-- What each operation of the node keeps, every command keeps. -/
structure Keeps (Inv : State → Prop) : Prop where
  reset : ∀ pins s, Inv (beginReset pins s)
  pins : ∀ p s, Inv s → Inv { s with pins := p }
  ended : ∀ s, Inv s → Inv (endReset s)
  start : ∀ s, Inv s → Inv (startOnDi s)
  word : ∀ w s, Inv s → Inv (wordOnDi w s)
  done : ∀ s, Inv s → Inv (endOnDi s)
  flow : ∀ f s, Inv s → Inv (onLink (fun l => { l with flowIn := f }) s)
  again : ∀ s, Inv s → Inv (repeatFlow s)
  send : ∀ s, Inv s → Inv (onLink Link.sendOne s)
  take : ∀ s p rest, Inv s → s.parcels.buffer = p :: rest → p.executable = true → Inv (takeParcel rest s)
  lose : ∀ s, Inv s → Inv (loseMessage s)
  rep : ∀ (s : State) p code r b, Inv s → s.ret.queue.length < 8 → Inv (reply p code r b s)
  history : ∀ (s : State) k tag code, Inv s →
    Inv { s with parcels := { s.parcels with history := addHistory k tag code s.parcels.history } }
  write : ∀ s w0 data, Inv s → Inv { s with tables := (s.tables.write w0 data).1 }
  commit : ∀ s cs, Inv s → Inv { s with tables := (s.tables.commit cs).1 }
  discard : ∀ s cs, Inv s → Inv { s with tables := (s.tables.discard cs).1 }
  freeze : ∀ s cs, Inv s → Inv { s with tables := (s.tables.freeze cs).1 }
  thaw : ∀ s w0 g, Inv s → Inv { s with tables := (s.tables.thaw w0 g).1 }
  image : ∀ s x, Inv s → Inv { s with snap := x }
  ack : ∀ s, Inv s → Inv { s with parcels := { s.parcels with startMark := false } }
  clear : ∀ p s, Inv s → Inv (clearFaultsRule p s).1
  restart : ∀ s, Inv s → Inv (runRestart s)
  cycle : ∀ s, Inv s → s.drive.running = false → Inv (startCycle s)
  complete : ∀ obs s, Inv s → Inv (completeCycle obs s)
  sample : ∀ m n s, Inv s → Inv (sampleTemperature m n s)
  watch : ∀ s, Inv s → s.watch.state = .live → Inv (expireWatch s)
  hold : ∀ s, Inv s → s.watch.state = .holdover → Inv (expireHoldover s)
  transmit : ∀ s, Inv s → Inv (startTransmission s)
  sent : ∀ s, Inv s → Inv (completeTransmission s)
  riStart : ∀ s, Inv s → Inv (startOnRi s)
  riEnd : ∀ ws s, Inv s → Inv (endOnRi ws s)

/-- A parcel rule that keeps the invariant and the queue, run by its command. -/
theorem Keeps.parcel {Inv : State → Prop} (h : Keeps Inv) {k : ParcelKind} {rule : ParcelRule} {s : State}
    (hs : Inv s) (apply : ∀ p x, Inv x → Inv (rule p x).1)
    (queue : ∀ p x, (rule p x).1.ret.queue = x.ret.queue) : Inv (runParcel k rule s) :=
  runParcel_keeps hs h.take h.lose h.rep apply (fun x tag code hx => h.history x k tag code hx) queue

theorem Keeps.unknown {Inv : State → Prop} (h : Keeps Inv) {s : State} (hs : Inv s) : Inv (runUnknown s) := by
  unfold runUnknown
  split
  · exact hs
  · rename_i p rest hb
    split
    · rename_i hx
      have ht := h.take s p rest hs hb hx.1
      simp only
      split
      · unfold queueCapacity
        split
        · exact h.lose _ ht
        · rename_i hq
          exact h.rep _ _ _ _ _ ht (by omega)
      · exact ht
    · exact hs

/-- Every command keeps an invariant that every operation keeps. -/
theorem Keeps.exec {Inv : State → Prop} (h : Keeps Inv) (c : Instr) {s t : State} (he : exec c s = .next t)
    (hs : Inv s) : Inv t := by
  have up : ∀ {f : State → State}, whenUp s f = .next t → (s.pins.phase = .up → Inv (f s)) → Inv t := by
    intro f hw hf
    rcases whenUp_cases hw with rfl | ⟨hu, rfl⟩
    · exact hs
    · exact hf hu
  cases c
  case powerOnReset cause =>
    cases cause <;> simp only [Machine.exec, execPowerOnReset, Host.Outcome.next.injEq] at he <;> subst he
    · split
      · exact hs
      · exact h.reset _ _
    · exact h.reset _ _
  case resetEnd =>
    simp only [Machine.exec, execResetEnd, Host.Outcome.next.injEq] at he
    subst he
    split
    · exact h.ended _ hs
    · exact hs
  case resetRelease line =>
    cases line <;> simp only [Machine.exec, execResetRelease, Host.Outcome.next.injEq] at he <;> subst he <;>
      unfold releaseLines <;> split <;> exact h.pins _ _ hs
  case vccFltDriveThreshold edge =>
    cases edge <;> simp only [Machine.exec, execVccFltDriveThreshold, Host.Outcome.next.injEq] at he <;> subst he <;> split
    · exact h.reset _ _
    · exact h.pins _ _ hs
    · exact h.pins _ _ hs
    · exact hs
  case diStart => exact up he fun _ => h.start s hs
  case diHeaderWord w => exact up he fun _ => h.word w s hs
  case diPayloadWord w => exact up he fun _ => h.word w s hs
  case diParcelWord w => exact up he fun _ => h.word w s hs
  case diTrailerWord w => exact up he fun _ => h.word w s hs
  case diExtraWord w => exact up he fun _ => h.word w s hs
  case diDiscardedWord w => exact up he fun _ => h.word w s hs
  case diEnd => exact up he fun _ => h.done s hs
  case diFlowSymbol f => exact up he fun _ => h.flow f s hs
  case flowSymbolRepeat => exact up he fun _ => h.again s hs
  case doSymbolTime => exact up he fun _ => h.send s hs
  case ping => exact up he fun _ => h.parcel hs (fun _ _ hx => hx) fun _ _ => rfl
  case status => exact up he fun _ => h.parcel hs (fun _ _ hx => hx) fun _ _ => rfl
  case write => exact up he fun _ => h.parcel hs (fun _ x hx => h.write x _ _ hx) fun _ _ => rfl
  case read => exact up he fun _ => h.parcel hs (fun _ _ hx => hx) fun _ _ => rfl
  case commit => exact up he fun _ => h.parcel hs (fun _ x hx => h.commit x _ hx) fun _ _ => rfl
  case discard => exact up he fun _ => h.parcel hs (fun _ x hx => h.discard x _ hx) fun _ _ => rfl
  case freeze => exact up he fun _ => h.parcel hs (fun _ x hx => h.freeze x _ hx) fun _ _ => rfl
  case thaw => exact up he fun _ => h.parcel hs (fun _ x hx => h.thaw x _ _ hx) fun _ _ => rfl
  case capture => exact up he fun _ => h.parcel hs (fun _ x hx => h.image x _ hx) fun _ _ => rfl
  case readSnapshot => exact up he fun _ => h.parcel hs (fun _ _ hx => hx) fun _ _ => rfl
  case ackStart => exact up he fun _ => h.parcel hs (fun _ x hx => h.ack x hx) fun _ _ => rfl
  case clearFaults => exact up he fun _ => h.parcel hs (fun p x hx => h.clear p x hx) fun _ _ => rfl
  case restart => exact up he fun _ => h.restart s hs
  case unknownKindParcel => exact up he fun _ => h.unknown hs
  case cycleStart =>
    simp only [Machine.exec, execCycleStart] at he
    refine up he fun _ => ?_
    split
    · exact hs
    · exact h.cycle s hs (by simp_all)
  case cycleCompletion obs =>
    simp only [Machine.exec, execCycleCompletion] at he
    refine up he fun _ => ?_
    split
    · exact h.complete obs s hs
    · exact hs
  case thermalSample m n => exact up he fun _ => h.sample m n s hs
  case watchExpiry =>
    simp only [Machine.exec, execWatchExpiry] at he
    refine up he fun _ => ?_
    split
    · rename_i hw
      exact h.watch s hs hw.1
    · exact hs
  case holdoverExpiry =>
    simp only [Machine.exec, execHoldoverExpiry] at he
    refine up he fun _ => ?_
    split
    · rename_i hw
      exact h.hold s hs hw.1
    · exact hs
  case transmissionStart => exact up he fun _ => h.transmit s hs
  case transmissionCompletion => exact up he fun _ => h.sent s hs
  case riMessageStart => exact up he fun _ => h.riStart s hs
  case riMessageReceived ws => exact up he fun _ => h.riEnd ws s hs

/-- Every step keeps an invariant that every operation keeps and that does not look at the queue of commands. -/
theorem Keeps.step {Inv : State → Prop} (h : Keeps Inv) (hq : ∀ s q, Inv s → Inv { s with pending := q }) {s t : State}
    (he : step s = .next t) (hs : Inv s) : Inv t := by
  unfold Machine.step runFront at he
  split at he
  · cases he
    exact hs
  · exact h.exec _ he (hq _ _ hs)

end Sys2Proof.Machine
end

