-- ==== Sys2Proof/Tests/Slice0.lean ====
section
/-! SUPPORT. The model's own tests: the checks of WellFormed, one or two small steps per command with expected values from
the spec's worked examples, and for every statement with hypotheses a concrete state that meets them. -/

namespace Sys2Proof.Tests

open Sys2Proof Sys2Proof.Machine Sys2Proof.Safety

set_option Elab.async false

/-! ### Helpers -/

/-- The state after one command. -/
def after (c : Instr) (s : State) : State :=
  match exec c s with
  | .next t => t
  | .fault _ => s
  | .refused _ => s

/-- A node at address 8 with its start mark acknowledged, nothing to send and FLOW-GO recorded. -/
def base : State :=
  { State.reset with
    link := { State.reset.link with address := 8, flowIn := .go, doQueue := [] }
    parcels := { State.reset.parcels with startMark := false } }

/-- That node with the receiver in a state and `n` symbols in the DO queue. -/
def atRx (r : Rx) (n : Nat) : State :=
  { base with link := { base.link with rx := r, doQueue := List.replicate n .idle } }

/-- A sweep with P = 4, Q = 1 and number 7 under a map that takes positions 0 to 3 for channels 0 to 3. -/
def sweepOf (k : SweepKind) (hold : Bool) : Sweep where
  kind := k
  hold := hold
  p := 4
  q := 1
  num := 7
  map := [{ start := 0, length := 4, first := 0, curve := 0, take := true }]
  enumAddr := none

/-- The ENUM sweep of R30 before its address word. -/
def enumSweep : Sweep := { sweepOf .enum false with p := 1, q := 0, map := [] }

/-- An executable parcel with tag 17. -/
def parcelOf (std : Standing) (kind : Byte) (body : List Word) : Parcel where
  target := 8
  tag := 17
  kind := kind
  len := body.length
  body := body
  sweepNum := 7
  standing := std
  executable := true

/-- The node with one parcel in its buffer. -/
def holding (p : Parcel) : State := { base with parcels := { base.parcels with buffer := [p] } }

/-- The answer a node gives to an addressed parcel: the code and body of the newest message of its queue. -/
def answerOf (s : State) : Option (ResultCode × List Word) :=
  match s.ret.queue.getLast? with
  | some { content := .reply _ code _ body, .. } => some (code, body)
  | _ => none

/-- A queued reply. -/
def someReply : Msg where
  source := 8
  lost := false
  content := .reply 3 .done false []

/-- The node with `n` replies in its local reply queue. -/
def queued (n : Nat) (s : State) : State := { s with ret := { s.ret with queue := List.replicate n someReply } }

/-! ### WellFormed: an ill-formed command for each check -/

/-- A cycle's observation in one window, every output at 5 V and VLS at 12 V. -/
def quietObs (len : Nat) : CycleObs where
  windows := [{ len := len, vls := 12000, out := Vector.replicate 16 5000 }]
  vlsEnd := 12000

theorem test_wf_cycle_whole : (Instr.cycleCompletion (quietObs 4096)).wf = true := by decide
theorem test_wf_cycle_short : (Instr.cycleCompletion (quietObs 4095)).wf = false := by decide
theorem test_wf_cycle_empty_window :
    (Instr.cycleCompletion { quietObs 4096 with
      windows := { len := 0, vls := 0, out := Vector.replicate 16 0 } :: (quietObs 4096).windows }).wf = false := by decide
theorem test_wf_vls_range :
    (Instr.cycleCompletion { windows := [{ len := 4096, vls := 17001, out := Vector.replicate 16 0 }]
                             vlsEnd := 0 }).wf = false := by decide
theorem test_wf_out_range :
    (Instr.cycleCompletion { windows := [{ len := 4096, vls := 0, out := Vector.replicate 16 17001 }]
                             vlsEnd := 0 }).wf = false := by decide
theorem test_wf_vls_end_range : (Instr.cycleCompletion { quietObs 4096 with vlsEnd := 17001 }).wf = false := by decide
theorem test_wf_count : (Instr.thermalSample 25000 4096).wf = false := by decide

/-! ### Decoding: the table gives no bits -/

theorem test_decode_none : decodeTableWord 16 0x3002 = none := rfl

/-! ### Check word and words -/

/-- The public check of this CRC: 0xA12B over the ASCII digits 12345678. -/
theorem test_crc : crcOf [0x3132, 0x3334, 0x3536, 0x3738] = 0xA12B := by decide +kernel

/-- The short-sweep example of 01_the_slot_map.md. -/
def shortMap : List Entry :=
  [ { start := 4, length := 8, first := 0, curve := 0, take := true },
    { start := 12, length := 6, first := 8, curve := 1, take := false },
    { start := 20, length := 2, first := 14, curve := 4, take := true } ]

theorem test_forwarded_counts : [0, 3, 10, 15, 21, 22, 30].map (forwardedCount shortMap) = [0, 3, 4, 7, 12, 12, 20] := by
  decide

/-- Curve 1 of the worked example of 04_correction_curves_and_output_drive.md. -/
def curveOne : Vector Word 68 := Vector.ofFn fun i =>
  if 17 ≤ i.val ∧ i.val < 34 then
    [0, 4, 16, 40, 80, 140, 220, 330, 470, 650, 870, 1140, 1470, 1870, 2350, 2920, 3600].getD (i.val - 17) 0
  else 0

theorem test_curve : [20000, 32768, 65535].map (curveOnTime curveOne 1) = [132, 470, 3599] ∧
    curveOnTime curveOne 4 20000 = 1250 := by decide +kernel

/-- The conducting runs of channel 2 in the four-channel example, whole and cut at count 2200. -/
theorem test_runs :
    (DriveCh.onRuns { onTime := 3000, code := 120, phase := 2, off := .clear } =
      [{ lo := 0, hi := 952 }, { lo := 2048, hi := 4096 }]) ∧
    (DriveCh.onRuns { onTime := 3000, code := 120, phase := 2, off := .cutAt 2200 } =
      [{ lo := 0, hi := 952 }, { lo := 2048, hi := 2200 }]) := by decide +kernel

/-! ### Power, reset and the fault line -/

theorem test_reset_begins : (after (.powerOnReset (.rstnLow 1000)) base).link.address = 255 ∧
    (after (.powerOnReset (.rstnLow 999)) base).link.address = 8 := by decide +kernel
theorem test_reset_release : (after (.resetRelease .rstn) (after (.powerOnReset (.rstnLow 1000)) base)).pins.phase =
    .counting := by decide +kernel
theorem test_reset_end : (after .resetEnd { base with pins := { base.pins with phase := .counting } }).link.doQueue =
    [.flow .go] := by decide +kernel
theorem test_flt_needs_vcc : (after (.vccFltDriveThreshold .falling) base).fltLow = false ∧
    (after (.powerOnReset .vccLow) base).fltLow = true := by decide +kernel
theorem test_flt_start_mark : State.reset.fltLow = true ∧ base.fltLow = false := by decide +kernel

/-! ### Lanes -/

theorem test_start : (after .diStart (atRx .waitStart 0)).link.doQueue = [.startSym] := by decide +kernel
theorem test_manage_header :
    (after (.diHeaderWord 0) (atRx (.header [0x3002, 812]) 0)).link.rx =
      .parcels { kind := .manage, hold := false, p := 0, q := 2, num := 812, map := [], enumAddr := none } 2
        .addressWord := by decide +kernel
theorem test_enum_header_with_two_words : (after (.diHeaderWord 2) (atRx (.header [0x4000, 1]) 0)).link.rx = .skip := by
  decide +kernel
theorem test_enum_rewrite :
    [0, 253, 254, 255].map (fun a => (after (.diPayloadWord a) (atRx (.payload enumSweep 0) 0)).link.doQueue) =
      [[.word 1], [.word 254], [.word 255], [.word 255]] := by decide +kernel
theorem test_take_entry_removes :
    (after (.diPayloadWord 900) (atRx (.payload (sweepOf .data false) 1) 0)).link.doQueue = [] ∧
    (after (.diPayloadWord 900) (atRx (.payload (sweepOf .data false) 1) 0)).levels[1].staged = 900 := by decide +kernel

/-- An account is open and the receiver awaits the kind-and-length word of an addressed parcel. -/
def arriving : State :=
  { atRx (.parcels (sweepOf .manage false) 1 (.kindLenWord 8 17 (some .addressed))) 0 with
    parcels := { base.parcels with account := some { closed := false, unstored := 0, firstTag := none } } }

theorem test_parcel_stored : (after (.diParcelWord 0x0302) arriving).parcels.buffer.map (fun p => (p.kind, p.len)) =
    [(3, 2)] := by decide +kernel
theorem test_ninth_parcel_overflows :
    (after (.diParcelWord 0x0302) { arriving with
      parcels := { arriving.parcels with buffer := List.replicate 8 (parcelOf .addressed 1 []) } }).parcels.account =
      some { closed := true, unstored := 1, firstTag := some 17 } := by decide +kernel
theorem test_mark_word : (after (.diTrailerWord 0x5AC3) (atRx (.trailer enumSweep (some true)) 0)).link.rx =
      .waitEnd enumSweep true true ∧
    (after (.diTrailerWord 0xA53C) (atRx (.trailer enumSweep (some true)) 0)).link.rx =
      .waitEnd enumSweep true false := by decide +kernel
theorem test_extra_word : (after (.diExtraWord 1) (atRx (.waitEnd enumSweep true true) 0)).link.framingExact = false := by
  decide +kernel
theorem test_discarded_word : (after (.diDiscardedWord 1) (atRx .skip 0)).link.doQueue = [] := by decide +kernel

/-- Step 2 of the worked sequence of 03_levels_staging_holding_and_latching.md, just before its sweep end: channels 0 and
1 are staged, channels 0 to 3 held, all four active at 100. -/
def stepTwo (k : SweepKind) : State :=
  { atRx (.waitEnd (sweepOf k false) true true) 0 with
    levels := Vector.ofFn fun c =>
      if c.val < 4 then
        { staged := [900, 950, 700, 800].getD c.val 0, stagedMark := c.val < 2
          held := [500, 600, 700, 800].getD c.val 0, heldMark := true, active := 100 }
      else State.reset.levels[c] }

theorem test_plain_data_end :
    ([0, 1, 2, 3].map fun c : Fin 16 => ((after .diEnd (stepTwo .data)).levels[c].active,
      (after .diEnd (stepTwo .data)).levels[c].heldMark)) =
      [(900, false), (950, false), (100, true), (100, true)] := by decide +kernel
theorem test_latch_end :
    ([0, 1, 2, 3].map fun c : Fin 16 => (after .diEnd (stepTwo .latch)).levels[c].active) = [500, 600, 700, 800] := by
  decide +kernel
theorem test_flow_recorded : (after (.diFlowSymbol .hold) (atRx .skip 0)).link.flowIn = .hold := by decide +kernel
theorem test_flow_repeat : (after .flowSymbolRepeat
      { base with ret := { base.ret with pass := [[1], [2]] } }).link.doQueue = [.flow .hold] := by decide +kernel
theorem test_do_idle : (after .doSymbolTime base).link.doLane = .idle := by decide +kernel

/-! ### Parcels -/

theorem test_ping : answerOf (after .ping (holding (parcelOf .addressed 1 []))) = some (.done, [8, 0x7A16]) := by
  decide +kernel
theorem test_status : (answerOf (after .status (holding (parcelOf .addressed 2 [])))).map (fun x => x.2.take 3) =
    some [8, 0, 0] := by decide +kernel
theorem test_write : (after .write (holding (parcelOf .addressed 3 [0xC001, 30]))).tables.policy.shadow[1] = 30 := by
  decide +kernel
theorem test_write_range : answerOf (after .write (holding (parcelOf .addressed 3 [0xC018, 1, 2]))) =
    some (.refusedRange, []) := by decide +kernel
theorem test_read : answerOf (after .read (holding (parcelOf .addressed 4 [0xC000, 3]))) =
    some (.done, [50, 20, 100]) := by decide +kernel

/-- The shadow MAP of the first-offending-word example of 05_table_sections_and_commit.md. -/
def badShadow : State :=
  { holding (parcelOf .addressed 5 [1]) with
    tables := { base.tables with map := { base.tables.map with
      shadow := Vector.ofFn fun i => [3, 0x8000, 0x0008, 0x8008, 0x1604, 0x000A, 0x4C02].getD i.val 0 } } }

theorem test_commit_invalid : answerOf (after .commit badShadow) = some (.refusedInvalid, [0, 4]) := by decide +kernel
theorem test_commit_accepted : answerOf (after .commit (holding (parcelOf .addressed 5 [0x9]))) =
    some (.accepted, [1, 0, 0, 1]) := by decide +kernel
theorem test_discard : (after .discard { badShadow with
      parcels := { badShadow.parcels with buffer := [parcelOf .addressed 6 [1]] } }).tables.map.shadow[0] = 0 := by
  decide +kernel
theorem test_freeze : (after .freeze (holding (parcelOf .addressed 7 [4]))).tables.drive.frozen = true := by
  decide +kernel

/-- DRIVE frozen at generation 5. -/
def frozenDrive (p : Parcel) : State :=
  { holding p with tables := { base.tables with drive := { base.tables.drive with frozen := true, gen := 5 } } }

theorem test_thaw_generation :
    answerOf (after .thaw (frozenDrive (parcelOf .addressed 8 [0x8000, 4]))) = some (.refusedGen, [2, 5]) ∧
    (after .thaw (frozenDrive (parcelOf .addressed 8 [0x8000, 5]))).tables.drive.frozen = false := by decide +kernel
theorem test_capture : (after .capture (holding (parcelOf .addressed 9 []))).snap.image[1] = 8 := by decide +kernel
theorem test_read_snapshot_none : answerOf (after .readSnapshot (holding (parcelOf .addressed 10 [0, 1]))) =
    some (.refusedNone, []) := by decide +kernel
theorem test_ack_start : (after .ackStart { holding (parcelOf .addressed 11 []) with
      parcels := { State.reset.parcels with buffer := [parcelOf .addressed 11 []] } }).parcels.startMark = false := by
  decide +kernel

/-- DRIVE with channels 5 and 7 at ISOLATE-GROUP, every current code 120 (08_channel_diagnostics.md, worked example). -/
def groupDrive : Vector Word 33 := Vector.ofFn fun i =>
  if i.val = 32 then 1
  else if i.val % 2 = 0 then BitVec.ofNat 16 (120 + 256 * (i.val / 2 % 4))
  else if i.val = 11 ∨ i.val = 15 then 0x00F3 else 0x00F1

/-- Records 5 and 23 as they stand in the example, latches of group 4 to 7 as given. -/
def diagWith (a b : FaultRec) (latch : Option (Fin 63)) : Diag where
  records := Vector.ofFn fun i => if i.val = 5 then a else if i.val = 23 then b else State.reset.diag.records[i]
  latches := Vector.ofFn fun c => if c.val / 4 = 1 then latch else none
  changed := Vector.replicate 63 false

/-- The node of the example with a diagnostics state and all four latches in view. -/
def exampleNode (d : Diag) (buffer : List Parcel) : State :=
  { base with
    diag := d
    parcels := { base.parcels with buffer := buffer }
    tables := { base.tables with drive := { base.tables.drive with active := groupDrive } }
    drive := { running := true, rate := 1, ch := Vector.ofFn fun c =>
      { onTime := 2000, code := 120, phase := Fin.ofNat 4 c.val, off := .clear } } }

theorem test_clear_faults_relatches :
    ([4, 5, 6, 7].map fun c : Fin 16 =>
      (after .clearFaults (exampleNode
        (diagWith { state := .confirmed, run := 0, seen := true } { state := .confirmed, run := 0, seen := true } (some 5))
        [parcelOf .addressed 12 [0x0020, 0x0001]])).diag.latches[c]) = [some 23, some 23, some 23, some 23] := by
  decide +kernel
theorem test_restart_reply_first : (after .restart (queued 8 (holding (parcelOf .addressed 13 [])))).ret.queue =
    [{ source := 8, lost := false, content := .reply 17 .done false [] }] := by decide +kernel

/-- A queue of a reply, a LINK notice and a FAULT notice of records 3 and 19 at a RESTART: the reply of the RESTART, then
FAULT, then LINK reporting SILENT after HOLDOVER (R148, R198, and the worked example of 06_management_parcels.md). -/
theorem test_restart_notices :
    let p := parcelOf .addressed 13 []
    let s := { holding p with
      watch := { state := .live, watchTimer := none, holdTimer := none }
      ret := { base.ret with
        lost := true
        prevLink := .holdover
        queue := [someReply, { source := 8, lost := false, content := .notice .link [0x0021] },
          { source := 8, lost := false, content := .notice .fault [0x0303, 0x0313] }] } }
    (after .restart s).ret.queue.map (fun m => (m.lost, m.content)) =
      [(false, .reply 17 .done false []), (false, .notice .fault [3, 19]), (false, .notice .link [0x0020])] := by
  decide +kernel
theorem test_unknown_kind : answerOf (after .unknownKindParcel (holding (parcelOf .addressed 0x0E []))) =
    some (.badKind, []) := by decide +kernel
theorem test_repeat_answered : answerOf (after .freeze { holding (parcelOf .addressed 7 [4]) with
      parcels := { base.parcels with
        buffer := [parcelOf .addressed 7 [4]], history := [{ tag := 17, kind := .freeze, code := .done }] } }) =
    some (.done, []) := by decide +kernel

/-! ### Cycles, monitors, timers -/

/-- Channel 0 unmapped at fallback level 20000, band WARM: RAW 1250 derated to 937. -/
theorem test_cycle_start : (after .cycleStart { base with
      drive := { base.drive with running := false }
      thermal := { base.thermal with band := .warm }
      tables := { base.tables with policy := { base.tables.policy with
        active := Vector.ofFn fun i => if i.val = 9 then 20000 else policyWords0[i] } } }).drive.ch[0].onTime = 937 := by
  decide +kernel

/-- The outputs of cycle c6: output 5 collapses and output 7 has no headroom. -/
def c6Obs : CycleObs where
  windows := [{ len := 4096, vls := 12000, out := Vector.ofFn fun n =>
    if n.val = 5 then 100 else if n.val = 7 then 11500 else if n.val % 2 = 0 then 5000 else 8000 }]
  vlsEnd := 12000

/-- The node of the example before cycle c6 completes. -/
def beforeC6 : State := exampleNode
  (diagWith { state := .suspect, run := 2, seen := false } { state := .suspect, run := 2, seen := false } none) []

theorem test_c6_samples : beforeC6.sampleAt false c6Obs 5 = .fail ∧ beforeC6.sampleAt false c6Obs 23 = .fail ∧
    beforeC6.sampleAt false c6Obs 4 = .pass := by decide +kernel

/-- With the OPEN detectors disabled record 23 confirms alone, and the latches of its group name it. -/
theorem test_group_isolation :
    ([4, 5, 6, 7].map fun c : Fin 16 =>
      (after (.cycleCompletion c6Obs) { beforeC6 with
        tables := { beforeC6.tables with policy := { beforeC6.tables.policy with
          active := Vector.ofFn fun i => if i.val = 7 then 0x000E else policyWords0[i] } } }).diag.latches[c]) =
      [some 23, some 23, some 23, some 23] := by decide +kernel

/-- An output at 5 V passes OPEN at 20 kΩ, and is seen as collapsed with REF open (R75, R152). -/
theorem test_open_ref : let s := exampleNode (diagWith State.reset.diag.records[5] State.reset.diag.records[23] none) []
    s.sampleAt (imax (some 20000) == 0) (quietObs 4096) 5 = .pass ∧ s.sampleAt (imax none == 0) (quietObs 4096) 5 = .fail := by
  decide +kernel

/-- A cut at count 0 is handed; a cycle that began in CRITICAL hands none, and neither conducts (R81, R157). -/
theorem test_cut_handed :
    (DriveCh.cutCount { onTime := 3000, code := 120, phase := 2, off := .cutAt 0 }) = some 0 ∧
    (DriveCh.cutCount { onTime := 3000, code := 120, phase := 2, off := .fromStart }) = none ∧
    (DriveCh.onRuns { onTime := 3000, code := 120, phase := 2, off := .fromStart }) = [] := by decide +kernel

/-- Four notices wait at occupancy 4: FAULT and THERMAL join, SUPPLY and LINK wait (R138). -/
theorem test_notice_order :
    let s := queued 5 { base with
      diag := { base.diag with changed := Vector.ofFn fun i => i.val == 5 }
      ret := { base.ret with thermalFlag := true, supplyFlag := true, linkFlag := true } }
    (after .transmissionStart s).ret.queue.map Msg.noticeKind = [none, none, none, none, some .fault, some .thermal] ∧
    (after .transmissionStart s).ret.linkFlag = true := by decide +kernel
theorem test_supply_second_low : (after (.cycleCompletion { quietObs 4096 with vlsEnd := 3800 })
      { base with supply := { state := .ok, agree := 1, lowMark := false } }).supply =
    { state := .low, agree := 0, lowMark := true } := by decide +kernel

/-- The band of the hot-afternoon example at two samples. -/
theorem test_bands :
    [(147, Band.critical), (144, .critical), (119, .hot), (96, .warm), (94, .warm), (126, .warm)].map
      (fun x => newBand policyWords0 x.1 x.2) = [.critical, .hot, .warm, .warm, .normal, .hot] := by decide +kernel
theorem test_critical_cuts : (after (.thermalSample 152000 2200) base).drive.ch[3].off = .cutAt 2200 := by
  decide +kernel
theorem test_watch_expiry : (after .watchExpiry { base with
      watch := { state := .live, watchTimer := some 500, holdTimer := none } }).watch =
    { state := .holdover, watchTimer := none, holdTimer := some 2000 } := by decide +kernel
theorem test_holdover_expiry : (after .holdoverExpiry { base with
      watch := { state := .holdover, watchTimer := none, holdTimer := some 2000 } }).ret.queue.map
        (fun m => m.content) = [.notice .link [0x0023]] := by decide +kernel

/-! ### Return lane -/

theorem test_local_turn_after_three_passes :
    (after .transmissionStart (queued 1 { base with
      ret := { base.ret with pass := [[1]], passCount := 3 } })).ret.passCount = 0 ∧
    (after .transmissionStart (queued 1 { base with
      ret := { base.ret with pass := [[1]], passCount := 2 } })).ret.ro = some [1] := by decide +kernel
theorem test_transmission_completion : (after .transmissionCompletion
      { base with ret := { base.ret with ro := some [1] } }).ret.ro = none := by decide +kernel
theorem test_ri_overrun : (after .riMessageStart
      { base with ret := { base.ret with pass := [[1], [2], [3]] } }).ret.ri = .overrun := by decide +kernel
theorem test_ri_accepted : (after (.riMessageReceived (someReply.words ++ [crcOf someReply.words]))
      { base with ret := { base.ret with ri := .arriving } }).ret.pass.length = 1 := by decide +kernel
theorem test_ri_wrong_check : (after (.riMessageReceived (someReply.words ++ [crcOf someReply.words + 1]))
      { base with ret := { base.ret with ri := .arriving } }).ret.lost = true := by decide +kernel

/-! ### For every statement with hypotheses, a state that meets them, at the boundaries of its clauses -/

/-- A node in power-on reset with the given pins. -/
def resetting (pins : Pins) : State := { base with pins := pins }

theorem witness_StepRunsFrontCommand : base.pending = [] := rfl
theorem witness_PowerOnResetValues : (999 : Nat) < 1000 ∧ (1000 : Nat) ≤ 1000 := by decide
theorem witness_PowerOnSections : beginsReset (.powerOnReset (.rstnLow 1000)) base ∧
    beginsReset (.powerOnReset .vccLow) base ∧ beginsReset (.vccFltDriveThreshold .falling) base :=
  ⟨le_refl 1000, trivial, rfl⟩
theorem witness_ResetEndsInResetState : base.pins.vcc = .normal ∧ base.pins.rstnLow = false := ⟨rfl, rfl⟩
theorem witness_ResetLastsAndHoldsTheNode :
    (resetting { rstnLow := true, vcc := .below27, phase := .held }).pins.phase = .held ∧
      (resetting { rstnLow := false, vcc := .normal, phase := .counting }).pins.phase ≠ .up := by decide
theorem witness_VccThresholdGovernsFaultLine :
    (resetting { rstnLow := false, vcc := .below15, phase := .held }).pins.vcc ≠ .normal ∧
      (resetting { rstnLow := false, vcc := .below15, phase := .held }).pins.vcc = .below15 ∧
      (resetting { rstnLow := false, vcc := .below15, phase := .held }).pins.phase ≠ .up ∧
      base.pins.vcc = .normal := by decide
theorem witness_VccThreshold_falls : ∃ t, exec (.vccFltDriveThreshold .falling) base = .next t := ⟨_, rfl⟩

theorem witness_FlowSymbolsRecordedAndRepeated : Up (atRx .skip 16) ∧ (atRx .skip 16).link.rx = .skip ∧
    Up (atRx (.header []) 0) ∧ (atRx (.header []) 0).link.rx ≠ .waitStart ∧ (atRx (.header []) 0).link.rx ≠ .skip :=
  ⟨rfl, rfl, rfl, by decide, by decide⟩
theorem witness_DoQueueSendsOldestAndDropsWhenFull : Up (atRx .skip 1) ∧ (atRx .skip 1).link.doQueue = .idle :: [] ∧
    (atRx .skip 0).link.doQueue = [] ∧ 16 ≤ (atRx (.header [1]) 16).link.doQueue.length :=
  ⟨rfl, rfl, rfl, by decide⟩
theorem witness_DoQueueSendsOldestAndDropsWhenFull_words : Up (atRx (.payload (sweepOf .data false) 0) 16) ∧
    diWord (.diPayloadWord 900) = some 900 ∧
    SendsOn (atRx (.payload { sweepOf .data false with map := [] } 0) 16).link.rx ∧
    SendsOn (atRx (.parcels (sweepOf .manage false) 1 .addressWord) 16).link.rx ∧
    16 ≤ (atRx (.payload (sweepOf .data false) 0) 16).link.doQueue.length :=
  ⟨rfl, rfl, (by intro _ e h; cases h), trivial, by decide⟩
theorem witness_DoQueueSendsOldestAndDropsWhenFull_closing : Up (atRx (.waitEnd enumSweep true true) 13) ∧
    16 < (atRx (.waitEnd enumSweep true true) 13).link.doQueue.length + 4 := ⟨rfl, by decide⟩
theorem witness_HeaderValidity : Up (atRx (.header [0x1000, 1]) 16) ∧
    (atRx (.header [0x1000, 1]) 16).link.rx = .header [0x1000, 1] ∧ judgeHeader 0x1000 4096 = some .data ∧
    judgeHeader 0x1000 4097 = none := ⟨rfl, rfl, by decide +kernel, by decide +kernel⟩
theorem witness_StartBeginsSweep : Up (atRx .skip 16) ∧ (atRx .skip 16).link.rx = .skip ∧
    (atRx (.header [1]) 12).link.rx = .header [1] ∧
    acceptedSweep (atRx (.trailer (sweepOf .data true) none) 12).link.rx = some (sweepOf .data true) :=
  ⟨rfl, rfl, rfl, rfl⟩
theorem witness_HeaderWordsForwardedAndInvalidClosed : Up (atRx (.header [1]) 16) ∧
    (atRx (.header [1]) 16).link.rx = .header [1] ∧ judgeHeader 0x1020 0 = none ∧ judgeHeader 0x1000 4097 = none ∧
    (atRx (.header [0x1020, 1]) 12).link.rx = .header [0x1020, 1] :=
  ⟨rfl, rfl, by decide +kernel, by decide +kernel, rfl⟩
theorem witness_HeaderAcceptance : Up (atRx (.header [0x181F, 1]) 16) ∧
    (atRx (.header [0x181F, 1]) 16).link.rx = .header [0x181F, 1] ∧ judgeHeader 0x181F 4096 = some .data ∧
    judgeHeader 0x201F 0 = some .latch ∧ judgeHeader 0x4000 1 = some .enum :=
  ⟨rfl, rfl, by decide +kernel, by decide +kernel, by decide +kernel⟩
theorem witness_SwapAtHeaderAcceptance : Up (atRx (.header [0x3001, 1]) 0) ∧ diWord (.diHeaderWord 0) = some 0 ∧
    (atRx (.header [0x3001, 1]) 0).link.rx = .header [0x3001, 1] := ⟨rfl, rfl, rfl⟩

/-- A MAP of one entry: 16 positions from 4080, channels 0 to 15, RAW, take. -/
def lastEntryMap : Vector Word 49 := Vector.ofFn fun i => [1, 0x8FF0, 0x4010].getD i.val 0

theorem witness_ValidMapEntriesAndForwardedCount : MapValid lastEntryMap := by unfold MapValid; decide +kernel
theorem witness_DataWordMatched : Up (atRx (.payload (sweepOf .data false) 3) 16) ∧ (sweepOf .data false).kind = .data ∧
    (atRx (.payload (sweepOf .data false) 3) 16).link.rx = .payload (sweepOf .data false) 3 := ⟨rfl, rfl, rfl⟩
theorem witness_EnumWordRewritten : Up (atRx (.payload enumSweep 0) 16) ∧
    (atRx (.payload enumSweep 0) 16).link.rx = .payload enumSweep 0 ∧ enumSweep.kind = .enum ∧ enumSweep.p = 1 ∧
    enumSweep.q = 0 := ⟨rfl, rfl, rfl, rfl, rfl⟩

/-- The receiver in the last body word of a stored parcel. -/
def inBody : State :=
  { atRx (.parcels (sweepOf .manage false) 1 (.bodyWord 1 true)) 15 with
    parcels := { base.parcels with
      buffer := [parcelOf .broadcast 9 [], { parcelOf .addressed 4 [0] with len := 2, executable := false }] } }

theorem witness_ParcelAddressAndBodyWords : Up (atRx (.parcels (sweepOf .manage false) 1 .addressWord) 16) ∧
    (atRx (.parcels (sweepOf .manage false) 1 .addressWord) 16).link.rx = .parcels (sweepOf .manage false) 1 .addressWord ∧
    Up inBody ∧ inBody.link.rx = .parcels (sweepOf .manage false) 1 (.bodyWord 1 true) ∧
    inBody.parcels.buffer = [parcelOf .broadcast 9 []] ++
      [{ parcelOf .addressed 4 [0] with len := 2, executable := false }] := ⟨rfl, rfl, rfl, rfl, rfl⟩
theorem witness_ParcelAddressAndBodyWords_unstored :
    (atRx (.parcels (sweepOf .manage false) 1 (.bodyWord 255 false)) 16).link.rx =
      .parcels (sweepOf .manage false) 1 (.bodyWord 255 false) ∧
    (atRx (.parcels (sweepOf .manage false) 1 (.bodyWord 255 false)) 16).parcels.buffer = [] := ⟨rfl, rfl⟩
theorem witness_ParcelStoredOrUnstored : Up arriving ∧ arriving.link.rx =
      .parcels (sweepOf .manage false) 1 (.kindLenWord 8 17 (some .addressed)) ∧
    arriving.parcels.account = some { closed := false, unstored := 0, firstTag := none } := ⟨rfl, rfl, rfl⟩
theorem witness_TrailerWords : Up (atRx (.trailer enumSweep none) 0) ∧
    (atRx (.trailer enumSweep none) 0).link.rx = .trailer enumSweep none ∧
    (atRx (.trailer enumSweep (some false)) 0).link.rx = .trailer enumSweep (some false) := ⟨rfl, rfl, rfl⟩
theorem witness_SymbolsOutsideSweep : Up (atRx (.waitEnd enumSweep true true) 16) ∧ Up (atRx .waitStart 16) ∧
    Up (atRx .skip 16) := ⟨rfl, rfl, rfl⟩

/-- A node that awaits END after a sweep without a flaw, with the link state and the account given. -/
def atGoodEnd (k : SweepKind) (w : Watch) (a : Option Account) : State :=
  { atRx (.waitEnd (sweepOf k false) true true) 12 with watch := w, parcels := { base.parcels with account := a } }

/-- The link watch in a state without timers. -/
def watchIn (l : LinkState) : Watch := { state := l, watchTimer := none, holdTimer := none }

theorem witness_GoodSweepEnd : Up (atGoodEnd .data (watchIn .live) none) ∧
    (atGoodEnd .data (watchIn .live) none).link.rx = .waitEnd (sweepOf .data false) true true ∧
    (atGoodEnd .data (watchIn .live) none).link.framingExact = true ∧
    (atGoodEnd .data (watchIn .live) none).link.voidMark = false ∧
    (∀ a, (atGoodEnd .data (watchIn .live) none).parcels.account = some a → a.firstTag = none) ∧
    (atGoodEnd .data (watchIn .live) none).watch.state = .live ∧
    ((sweepOf .data false).kind = .enum → (8 : Byte) = 255 →
      ∀ k, noticePending (atGoodEnd .data (watchIn .live) none) k = false) :=
  ⟨rfl, rfl, rfl, rfl, (by intro a h; cases h), rfl, by intro h; cases h⟩
theorem witness_GoodSweepEnd_kinds : ∀ k, Up (atGoodEnd k (watchIn .silent) none) ∧
    (atGoodEnd k (watchIn .silent) none).link.rx = .waitEnd (sweepOf k false) true true ∧
    (atGoodEnd k (watchIn .silent) none).link.framingExact = true ∧
    (atGoodEnd k (watchIn .silent) none).link.voidMark = false := fun _ => ⟨rfl, rfl, rfl, rfl⟩
theorem witness_GoodSweepEnd_hold :
    let s := atRx (.waitEnd (sweepOf .data true) true true) 12
    Up s ∧ s.link.rx = .waitEnd (sweepOf .data true) true true ∧ (sweepOf .data true).hold = true ∧
      s.link.framingExact = true ∧ s.link.voidMark = false := ⟨rfl, rfl, rfl, rfl, rfl⟩
theorem witness_GoodSweepEnd_address :
    let sw := { enumSweep with enumAddr := some 254 }
    let s := { atRx (.waitEnd sw true true) 13 with
      link := { (atRx (.waitEnd sw true true) 13).link with address := 255 } }
    Up s ∧ s.link.rx = .waitEnd sw true true ∧ sw.kind = .enum ∧ sw.enumAddr = some 254 ∧ s.link.address = 255 ∧
      s.link.framingExact = true ∧ s.link.voidMark = false ∧ (∀ a, s.parcels.account = some a → a.firstTag = none) ∧
      ∀ k, noticePending s k = false :=
  ⟨rfl, rfl, rfl, rfl, rfl, rfl, rfl, (by intro a h; cases h), by intro k; cases k <;> decide +kernel⟩
theorem witness_GoodEndQueuesItsMessage_overflow : ∀ k,
    let s := atGoodEnd k (watchIn .live) (some { closed := true, unstored := 31, firstTag := some 17 })
    Up s ∧ s.link.rx = .waitEnd (sweepOf k false) true true ∧ s.link.framingExact = true ∧
      s.link.voidMark = false ∧ s.parcels.account = some { closed := true, unstored := 31, firstTag := some 17 } :=
  fun _ => ⟨rfl, rfl, rfl, rfl, rfl⟩
theorem witness_GoodEndQueuesItsMessage_return :
    let s := queued 5 (atGoodEnd .latch (watchIn .fallback) none)
    Up s ∧ s.link.rx = .waitEnd (sweepOf .latch false) true true ∧ s.link.framingExact = true ∧
      s.link.voidMark = false ∧ s.watch.state = .fallback ∧ (∀ a, s.parcels.account = some a → a.firstTag = none) ∧
      RoomForNotice s .link ∧ OnlyPending s [.link] ∧ 6 ≤ (queued 6 s).ret.queue.length :=
  ⟨rfl, rfl, rfl, rfl, rfl, (by intro a h; cases h), ⟨by decide, by decide, by decide⟩,
    (by intro k; cases k <;> decide +kernel), by decide⟩
theorem witness_GoodEndQueuesItsMessage_both :
    let s := atGoodEnd .data (watchIn .holdover) (some { closed := true, unstored := 1, firstTag := some 17 })
    Up s ∧ s.link.rx = .waitEnd (sweepOf .data false) true true ∧ s.watch.state = .holdover ∧
      s.parcels.account = some { closed := true, unstored := 1, firstTag := some 17 } := ⟨rfl, rfl, rfl, rfl⟩
theorem witness_BadSweepEnd :
    let s := atRx (.waitEnd (sweepOf .data true) true false) 16
    let r := atRx (.header [1, 2]) 16
    Up s ∧ acceptedSweep s.link.rx = some (sweepOf .data true) ∧
      (∀ c m, s.link.rx = .waitEnd (sweepOf .data true) c m →
        s.link.framingExact = false ∨ c = false ∨ m = false ∨ s.link.voidMark = true) ∧
      Up r ∧ r.link.rx = .header [1, 2] :=
  ⟨rfl, rfl, by intro c m h; cases h; exact .inr (.inr (.inl rfl)), rfl, rfl⟩
theorem witness_ChangeOnlyAt : exec .diEnd (atRx .skip 0) = .next (after .diEnd (atRx .skip 0)) ∧
    ¬ beginsReset .diEnd (atRx .skip 0) := ⟨rfl, fun h => h⟩

/-- A parcel alone in the buffer of a node with an empty reply queue has its turn. -/
theorem turnOf (p : Parcel) (h : p.executable = true) : Turn (holding p) p [] := ⟨rfl, rfl, h⟩

/-- An addressed parcel of a suitable length passes steps 1 to 4 of R118 there. -/
theorem addressedTurnOf {k : ParcelKind} {p : Parcel} (h1 : p.executable = true) (h2 : p.standing = .addressed)
    (h3 : parcelKindOf p.kind = some k) (h4 : k.suits p.len = true) : AddressedTurn (holding p) k p [] := by
  refine ⟨turnOf p h1, h2, h3, h4, by simp [holding, base, State.reset], ?_⟩
  simp [repeatedResult, holding, base, State.reset]

theorem witness_PingAndAckStart : AddressedTurn (holding (parcelOf .addressed 1 [])) .ping (parcelOf .addressed 1 []) [] ∧
    AddressedTurn (holding (parcelOf .addressed 11 [])) .ackStart (parcelOf .addressed 11 []) [] :=
  ⟨addressedTurnOf rfl rfl rfl rfl, addressedTurnOf rfl rfl rfl rfl⟩
theorem witness_StatusAnswered :
    AddressedTurn (holding (parcelOf .addressed 2 [])) .status (parcelOf .addressed 2 []) [] :=
  addressedTurnOf rfl rfl rfl rfl
theorem witness_WriteChecksThenStores :
    AddressedTurn (holding (parcelOf .addressed 3 [0xC018, 1])) .write (parcelOf .addressed 3 [0xC018, 1]) [] ∧
      Whole (parcelOf .addressed 3 [0xC018, 1]) := ⟨addressedTurnOf rfl rfl rfl rfl, rfl⟩
theorem witness_ReadsAnswered :
    AddressedTurn (holding (parcelOf .addressed 4 [0x4024, 32])) .read (parcelOf .addressed 4 [0x4024, 32]) [] ∧
      AddressedTurn (holding (parcelOf .addressed 10 [42, 32])) .readSnapshot (parcelOf .addressed 10 [42, 32]) [] :=
  ⟨addressedTurnOf rfl rfl rfl rfl, addressedTurnOf rfl rfl rfl rfl⟩
theorem witness_CommitAllOrNone :
    AddressedTurn (holding (parcelOf .addressed 5 [0xF])) .commit (parcelOf .addressed 5 [0xF]) [] :=
  addressedTurnOf rfl rfl rfl rfl
theorem witness_DiscardAllOrNone :
    AddressedTurn (holding (parcelOf .addressed 6 [0])) .discard (parcelOf .addressed 6 [0]) [] :=
  addressedTurnOf rfl rfl rfl rfl
theorem witness_FreezeAndThaw :
    AddressedTurn (holding (parcelOf .addressed 7 [8])) .freeze (parcelOf .addressed 7 [8]) [] ∧
      AddressedTurn (holding (parcelOf .addressed 8 [0xC000, 0])) .thaw (parcelOf .addressed 8 [0xC000, 0]) [] :=
  ⟨addressedTurnOf rfl rfl rfl rfl, addressedTurnOf rfl rfl rfl rfl⟩
theorem witness_CaptureTakesImage :
    AddressedTurn (holding (parcelOf .addressed 9 [])) .capture (parcelOf .addressed 9 []) [] :=
  addressedTurnOf rfl rfl rfl rfl
theorem witness_ClearFaultsClearsAndRelatches : AddressedTurn (holding (parcelOf .addressed 12 [0xFFFF, 0x3F])) .clearFaults
    (parcelOf .addressed 12 [0xFFFF, 0x3F]) [] := addressedTurnOf rfl rfl rfl rfl
theorem witness_RestartRestartsEveryBlock : ∀ std, Turn (holding (parcelOf std 13 [])) (parcelOf std 13 []) [] ∧
    parcelKindOf (parcelOf std 13 []).kind = some .restart ∧ (parcelOf std 13 []).len = 0 :=
  fun _ => ⟨turnOf _ rfl, rfl, rfl⟩
theorem witness_ParcelRefusedBeforeExecution_full :
    Turn (queued 8 (holding (parcelOf .addressed 13 [1]))) (parcelOf .addressed 13 [1]) [] ∧
      8 ≤ (queued 8 (holding (parcelOf .addressed 13 [1]))).ret.queue.length ∧ (parcelOf .addressed 13 [1]).len ≠ 0 :=
  ⟨⟨rfl, rfl, rfl⟩, by decide, by decide⟩
theorem witness_ParcelRefusedBeforeExecution_length :
    (queued 7 (holding (parcelOf .addressed 4 [1]))).ret.queue.length < 8 ∧
      ParcelKind.read.suits (parcelOf .addressed 4 [1]).len = false := by decide

/-- The node with one entry in its duplicate history. -/
def remembering (e : HistEntry) (p : Parcel) : State :=
  { holding p with parcels := { (holding p).parcels with history := [e] } }

theorem witness_ParcelRefusedBeforeExecution_repeat :
    let e : HistEntry := { tag := 17, kind := .freeze, code := .done }
    let p := parcelOf .addressed 7 [1]
    Turn (remembering e p) p [] ∧ p.standing = .addressed ∧ parcelKindOf p.kind = some .freeze ∧
      HistorySound (remembering e p) ∧ (remembering e p).ret.queue.length < 8 ∧ ParcelKind.freeze.suits p.len = true ∧
      ParcelKind.freeze.recorded = true ∧ p.tag ≠ 0 ∧ e ∈ (remembering e p).parcels.history ∧ e.tag = p.tag ∧
      e.kind = .freeze :=
  ⟨⟨rfl, rfl, rfl⟩, rfl, rfl, ⟨by decide, by simp [remembering], by decide⟩, by decide, rfl, rfl, by decide, by decide, rfl, rfl⟩
theorem witness_BroadcastExecutesWithoutReply : BroadcastTurn (holding (parcelOf .broadcast 12 [1, 1])) .clearFaults
    (parcelOf .broadcast 12 [1, 1]) [] ∧ ParcelKind.clearFaults.runsBroadcast = true :=
  ⟨⟨turnOf _ rfl, rfl, rfl, rfl⟩, rfl⟩
theorem witness_IgnoredAndUnknownParcels : Turn (holding (parcelOf .broadcast 8 [1, 1])) (parcelOf .broadcast 8 [1, 1]) [] ∧
    (parcelOf .broadcast 8 [1, 1]).standing = .broadcast ∧ parcelKindOf (parcelOf .broadcast 8 [1, 1]).kind = some .thaw ∧
    Turn (holding (parcelOf .addressed 14 [])) (parcelOf .addressed 14 []) [] ∧
    parcelKindOf (parcelOf .addressed 14 []).kind = none := ⟨turnOf _ rfl, rfl, rfl, turnOf _ rfl, rfl⟩

theorem witness_CycleStartTakesValues : Up { base with drive := { base.drive with running := false } } ∧
    base.drive.running = true := ⟨rfl, rfl⟩
theorem witness_EffectiveOnTime : TablesSound base := by
  refine ⟨⟨?_, nofun⟩, ⟨?_, nofun⟩, ⟨?_, nofun⟩, ⟨?_, nofun⟩⟩
  · unfold MapValid; decide +kernel
  · unfold CurvesValid; decide +kernel
  · unfold DriveValid; decide +kernel
  · unfold PolicyValid; decide +kernel
theorem witness_ConductionRuns : (DriveCh.onTime { onTime := 4096, code := 255, phase := 3, off := .cutAt 4095 }) ≤ 4096 := by
  decide
theorem witness_ConductionRuns_output : OnTimesSound base := by unfold OnTimesSound; decide +kernel
theorem witness_SampleJudgement : ∀ c : Fin 16, base.drive.ch[c].onTime ≤ 4096 := by decide +kernel
theorem witness_DebounceTable : Up base ∧ base.drive.running = true := ⟨rfl, rfl⟩
theorem witness_CycleCompletion : Up base ∧ base.drive.running = true := ⟨rfl, rfl⟩
theorem witness_ThermalSampleMovesBand : Up base := rfl
theorem witness_NoticesJoinAtOnceAndInOrder_band : Up (queued 5 base) ∧
    (after (.thermalSample 101000 0) (queued 5 base)).thermal.band ≠ (queued 5 base).thermal.band ∧
    RoomForNotice (queued 5 base) .thermal ∧ OnlyPending (queued 5 base) [.thermal] :=
  ⟨rfl, by decide +kernel, ⟨by decide, by decide, by decide⟩, by intro k; cases k <;> decide +kernel⟩
theorem witness_NoticesJoinAtOnceAndInOrder_unaddressed :
    let s := { base with link := { base.link with address := 255 } }
    Up s ∧ (after (.thermalSample 101000 0) s).thermal.band ≠ s.thermal.band ∧ s.link.address = 255 :=
  ⟨rfl, by decide +kernel, rfl⟩
theorem witness_NoticesJoinAtOnceAndInOrder_full :
    let s := queued 6 base
    Up s ∧ (after (.thermalSample 101000 0) s).thermal.band ≠ s.thermal.band ∧ 6 ≤ s.ret.queue.length :=
  ⟨rfl, by decide +kernel, by decide⟩

/-- A THERMAL notice with a body of its own. -/
def thermalNotice : Msg where
  source := 8
  lost := false
  content := .notice .thermal [0x0011]

theorem witness_NoticesJoinAtOnceAndInOrder_queued :
    let s := { base with ret := { base.ret with queue := [thermalNotice] } }
    Up s ∧ (after (.thermalSample 101000 0) s).thermal.band ≠ s.thermal.band ∧ s.link.address ≠ 255 ∧
      s.ret.queue.length < 6 ∧ (∃ m ∈ s.ret.queue, m.noticeKind = some .thermal) ∧ OnlyPending s [.thermal] :=
  ⟨rfl, by decide +kernel, by decide, by decide, ⟨thermalNotice, by decide, rfl⟩, by intro k; cases k <;> decide +kernel⟩
theorem witness_NoticesJoinAtOnceAndInOrder_order :
    let s := queued 6 { base with ret := { base.ret with thermalFlag := true, supplyFlag := true, linkFlag := true } }
    Up s ∧ s.ret.ro = none ∧ s.link.flowIn = .go ∧ s.ret.pass = [] ∧
      s.ret.queue = someReply :: List.replicate 5 someReply ∧ (List.replicate 5 someReply).length = 5 ∧
      s.link.address ≠ 255 ∧ (∀ x ∈ List.replicate 5 someReply, x.noticeKind = none) ∧
      [NoticeKind.fault, .thermal, .supply, .link] = [.fault] ++ .thermal :: [.supply, .link] ∧
      (∀ x ∈ [NoticeKind.fault], noticePending s x = false) ∧ noticePending s .thermal = true :=
  ⟨rfl, rfl, rfl, rfl, rfl, rfl, by decide, by decide, rfl, by decide +kernel, rfl⟩

theorem witness_NoticesJoinAtOnceAndInOrder_fault :
    let s := queued 6 { base with diag := { base.diag with changed := Vector.ofFn fun i => decide (i.val < 17) } }
    Up s ∧ s.ret.ro = none ∧ s.link.flowIn = .go ∧ s.ret.pass = [] ∧
      s.ret.queue = someReply :: List.replicate 5 someReply ∧ (List.replicate 5 someReply).length < 6 ∧
      s.link.address ≠ 255 ∧ (∀ x ∈ List.replicate 5 someReply, x.noticeKind ≠ some .fault) ∧
      OnlyPending s [.fault] ∧ noticePending s .fault = true :=
  ⟨rfl, rfl, rfl, rfl, rfl, by decide, by decide, by decide, by intro k; cases k <;> decide +kernel, by decide +kernel⟩
theorem witness_NoticesJoinAtOnceAndInOrder_supply :
    let s := queued 1 { base with ret := { base.ret with supplyFlag := true } }
    Up s ∧ s.ret.queue = someReply :: [] ∧ OnlyPending s [.supply] ∧ noticePending s .supply = true :=
  ⟨rfl, rfl, by intro k; cases k <;> decide +kernel, rfl⟩

/-- The node in LIVE or HOLDOVER with its timer running. -/
def timed (l : LinkState) : State :=
  { base with watch := { state := l, watchTimer := some 500, holdTimer := some 2000 } }

theorem witness_TimerExpiries_watch : Up (timed .live) ∧ (timed .live).watch.state = .live ∧
    (timed .live).watch.watchTimer.isSome = true ∧ polH (timed .live).tables.policy.active ≠ 0 := by
  exact ⟨rfl, rfl, rfl, by decide +kernel⟩

/-- The node in LIVE with its watch timer running under a POLICY of holdover time `h`. -/
def timedAt (h : Word) : State :=
  { timed .live with tables := { base.tables with policy := { base.tables.policy with
      active := Vector.ofFn fun i => if i.val = 1 then h else policyWords0[i] } } }

theorem witness_TimerExpiries_zero : Up (timedAt 0) ∧ (timedAt 0).watch.state = .live ∧
    (timedAt 0).watch.watchTimer.isSome = true ∧ polH (timedAt 0).tables.policy.active = 0 ∧
    RoomForNotice (timedAt 0) .link ∧ OnlyPending (timedAt 0) [.link] ∧ 6 ≤ (queued 6 (timedAt 0)).ret.queue.length :=
  ⟨rfl, rfl, rfl, by decide +kernel, ⟨by decide, by decide, by decide⟩, (by intro k; cases k <;> decide +kernel), by decide⟩
theorem witness_TimerExpiries_endless : Up (timedAt 255) ∧ (timedAt 255).watch.state = .live ∧
    (timedAt 255).watch.watchTimer.isSome = true ∧ polH (timedAt 255).tables.policy.active = 255 ∧
    (255 : Nat) ≠ 0 := ⟨rfl, rfl, rfl, by decide +kernel, by decide⟩
theorem witness_TimerExpiries_holdover : Up (timed .holdover) ∧ (timed .holdover).watch.state = .holdover ∧
    (timed .holdover).watch.holdTimer.isSome = true ∧ RoomForNotice (timed .holdover) .link ∧
    OnlyPending (timed .holdover) [.link] :=
  ⟨rfl, rfl, rfl, ⟨by decide, by decide, by decide⟩, by intro k; cases k <;> decide +kernel⟩
theorem witness_TransmissionStartAndCompletion_idle : Up base ∧ base.ret.pass = [] ∧ base.ret.queue = [] := ⟨rfl, rfl, rfl⟩
theorem witness_TransmissionStartAndCompletion_pass :
    let s := queued 1 { base with ret := { base.ret with pass := [[1], [2]], passCount := 2 } }
    Up s ∧ s.ret.ro = none ∧ s.link.flowIn = .go ∧ s.ret.pass = [1] :: [[2]] ∧ s.ret.passCount ≠ 3 :=
  ⟨rfl, rfl, rfl, rfl, by decide⟩
theorem witness_TransmissionStartAndCompletion_local :
    let s := queued 1 { base with ret := { base.ret with pass := [[1], [2]], passCount := 3 } }
    Up s ∧ s.ret.ro = none ∧ s.link.flowIn = .go ∧ s.ret.queue = someReply :: [] ∧ s.ret.passCount = 3 ∧
      OnlyPending s [] := ⟨rfl, rfl, rfl, rfl, rfl, by intro k; cases k <;> decide +kernel⟩
theorem witness_ReturnMessagesReceived :
    let s := { base with ret := { base.ret with ri := .arriving, pass := [[1], [2]] } }
    Up s ∧ s.ret.ri = .arriving ∧ Up base ∧ base.ret.ri ≠ .arriving := ⟨rfl, rfl, rfl, by decide⟩

/-! The reset state meets the hypotheses of every statement about all steps. -/

theorem witness_steps : step State.reset = .next State.reset := rfl
theorem witness_QueuesStayInBounds :
    ReplyQueueSound State.reset ∧ PassBufferSound State.reset ∧ DoQueueSound State.reset :=
  ⟨⟨by decide, by decide, by intro k; cases k <;> decide, by decide⟩, ⟨by decide, by decide, by decide⟩, by
    unfold DoQueueSound; decide⟩
theorem witness_ActiveCopiesStayValid : TablesSound State.reset ∧ OnTimesSound State.reset :=
  ⟨witness_EffectiveOnTime, witness_ConductionRuns_output⟩
theorem witness_NoNoticeEverWaits : NoNoticeWaits State.reset := by intro k; cases k <;> decide +kernel
theorem witness_DiagnosticsStaySound : LatchesSound State.reset ∧ RunsSound State.reset := by
  refine ⟨⟨?_, ?_⟩, ?_⟩
  · decide +kernel
  · decide +kernel
  · unfold RunsSound; decide +kernel
theorem witness_ParcelEngineStaysSound : ParcelBufferSound State.reset ∧ ParcelsWhole State.reset ∧
    HistorySound State.reset :=
  ⟨⟨by decide, by decide, by simp [State.reset]⟩, by simp [ParcelsWhole, State.reset], by
    simp [HistorySound, State.reset]⟩
theorem witness_MonitorsAndReceiverStaySound : MonitorsSound State.reset ∧ TimersSound State.reset ∧
    CriticalCut State.reset ∧ ReceiverSound State.reset :=
  ⟨⟨by decide, by decide, by decide⟩, ⟨by decide, by decide⟩, (by intro _ h; cases h), trivial⟩

end Sys2Proof.Tests
end

section
/-! SUPPORT. Sweeps and forwarding: the header's fields and verdict (R22), the receiver's answer to the third header word,
and the trailer (R33). -/

namespace Sys2Proof.Machine

open Sys2Proof Sys2Proof.Safety

/-! ### A word on DI while no reset lasts -/

theorem whenUp_of_up {s : State} (h : Up s) (f : State → State) : whenUp s f = .next (f s) :=
  congrArg _ (if_pos h)

theorem exec_diHeaderWord_of_up {s : State} (h : Up s) (w : Word) :
    exec (.diHeaderWord w) s = .next (wordOnDi w s) := whenUp_of_up h (wordOnDi w)

theorem exec_diTrailerWord_of_up {s : State} (h : Up s) (w : Word) :
    exec (.diTrailerWord w) s = .next (wordOnDi w s) := whenUp_of_up h (wordOnDi w)

theorem wordOnDi_header {s : State} {got : List Word} (h : s.link.rx = .header got) (w : Word) :
    wordOnDi w s = headerWord got w s := by simp only [wordOnDi, h]

theorem wordOnDi_trailer {s : State} {sw : Sweep} {c : Option Bool} (h : s.link.rx = .trailer sw c) (w : Word) :
    wordOnDi w s = trailerWord sw c w s := by simp only [wordOnDi, h]

/-! ### Fields of header word 0 -/

theorem kindBits_eq (w : Word) : bitsAt w 12 4 = w.toNat / 4096 := by
  have hw : w.toNat < 65536 := w.isLt
  rw [bitsAt_eq]
  omega

theorem spareBits_eq (w : Word) : bitsAt w 5 6 = w.toNat / 32 % 64 := bitsAt_eq w 5 6

theorem qOf_eq (w : Word) : qOf w = w.toNat % 32 := by
  simp [qOf, bitsAt_eq]

theorem holdOf_eq_false_iff (w : Word) : holdOf w = false ↔ w.toNat / 2048 % 2 = 0 := by
  simp [holdOf, BitVec.getLsbD, Nat.testBit_eq_decide_div_mod_eq]

/-! ### The verdict on a header -/

/-- The code of each kind in header word 0 (R22, R216). -/
def SweepKind.headerCode : SweepKind → Nat
  | .data => 1
  | .latch => 2
  | .manage => 3
  | .enum => 4

theorem sweepKindOf_eq_some_iff (w0 : Word) (k : SweepKind) :
    sweepKindOf w0 = some k ↔ w0.toNat / 4096 = k.headerCode := by
  rw [sweepKindOf, kindBits_eq]
  constructor <;> intro h
  · split at h <;> cases h <;> assumption
  · cases k <;> rw [h] <;> rfl

section
variable (w0 : Word) (p : Nat)

theorem admits_data_iff : SweepKind.data.admits (holdOf w0) p (qOf w0) = true ↔ p ≤ 4096 := by
  simp [SweepKind.admits]

theorem admits_latch_iff : SweepKind.latch.admits (holdOf w0) p (qOf w0) = true ↔
    w0.toNat / 2048 % 2 = 0 ∧ p = 0 := by
  simp [SweepKind.admits, holdOf_eq_false_iff]

theorem admits_manage_iff : SweepKind.manage.admits (holdOf w0) p (qOf w0) = true ↔
    w0.toNat / 2048 % 2 = 0 ∧ p = 0 := admits_latch_iff w0 p

theorem admits_enum_iff : SweepKind.enum.admits (holdOf w0) p (qOf w0) = true ↔
    w0.toNat / 2048 % 2 = 0 ∧ p = 1 ∧ w0.toNat % 32 = 0 := by
  simp [SweepKind.admits, holdOf_eq_false_iff, qOf_eq, and_assoc]

end

theorem judgeHeader_eq_some_iff (w0 w2 : Word) (k : SweepKind) :
    judgeHeader w0 w2 = some k ↔
      sweepKindOf w0 = some k ∧ bitsAt w0 5 6 = 0 ∧ k.admits (holdOf w0) w2.toNat (qOf w0) = true := by
  unfold judgeHeader
  cases sweepKindOf w0 with
  | none => simp
  | some j =>
    simp only [Option.ite_none_right_eq_some, Option.some.injEq]
    constructor
    · rintro ⟨⟨hspare, hadm⟩, rfl⟩; exact ⟨rfl, hspare, hadm⟩
    · rintro ⟨rfl, hspare, hadm⟩; exact ⟨⟨hspare, hadm⟩, rfl⟩

/-! ### The third header word -/

theorem headerWord_accepted {w0 w2 : Word} {k : SweepKind} (h : judgeHeader w0 w2 = some k) (w1 : Word) (s : State) :
    headerWord [w0, w1] w2 s = acceptHeader k w0 w1 w2 s := by simp only [headerWord, h]

theorem headerWord_rejected {w0 w2 : Word} (h : judgeHeader w0 w2 = none) (w1 : Word) (s : State) :
    headerWord [w0, w1] w2 s = rejectHeader w2 s := by simp only [headerWord, h]

theorem afterHeader_ne_skip (sw : Sweep) : sw.afterHeader ≠ .skip := by
  unfold Sweep.afterHeader
  split
  · nofun
  · split <;> nofun

/-- A valid header takes the receiver on into its sweep, never to SKIP (R27). -/
theorem acceptHeader_rx_ne_skip (k : SweepKind) (w0 w1 w2 : Word) (s : State) :
    (acceptHeader k w0 w1 w2 s).link.rx ≠ .skip := afterHeader_ne_skip _

/-- An invalid header sends the receiver to SKIP (R28). -/
theorem rejectHeader_rx (w2 : Word) (s : State) : (rejectHeader w2 s).link.rx = .skip := rfl

theorem headerWord_third_skip_iff (w0 w1 w2 : Word) (s : State) :
    (headerWord [w0, w1] w2 s).link.rx = .skip ↔ judgeHeader w0 w2 = none := by
  cases h : judgeHeader w0 w2 with
  | none =>
    rw [headerWord_rejected h]
    exact iff_of_true (rejectHeader_rx w2 s) rfl
  | some k =>
    rw [headerWord_accepted h]
    exact iff_of_false (acceptHeader_rx_ne_skip k w0 w1 w2 s) nofun

/-- Settles O11: the verdict is taken apart into kind code, spare bits and the kind's own requirement, each field a number
of word 0; P at most 4096 is the requirement of DATA and follows from that of the other kinds. -/
theorem headerValidity : Obligations.HeaderValidity := by
  refine ⟨fun w0 w2 k => ?_, fun s w0 w1 w2 hup hrx => ?_⟩
  · rw [judgeHeader_eq_some_iff, sweepKindOf_eq_some_iff, spareBits_eq]
    cases k with
    | data => rw [admits_data_iff]; simp only [SweepKind.headerCode]; tauto
    | latch => rw [admits_latch_iff]; simp only [SweepKind.headerCode]; omega
    | manage => rw [admits_manage_iff]; simp only [SweepKind.headerCode]; omega
    | enum => rw [admits_enum_iff]; simp only [SweepKind.headerCode]; omega
  · exact ⟨headerWord [w0, w1] w2 s, by rw [exec_diHeaderWord_of_up hup, wordOnDi_header hrx],
      headerWord_third_skip_iff w0 w1 w2 s⟩

/-! ### The trailer -/

/-- The check word is compared with the inbound running check and goes nowhere (R33). -/
theorem trailerWord_check (sw : Sweep) (w : Word) (s : State) : trailerWord sw none w s =
    { s with link := { s.link with rx := .trailer sw (some (decide (w = s.link.inCrc))) } } := rfl

/-- The mark word is CLEAN exactly as 0x5AC3, and goes nowhere (R33, R215). -/
theorem trailerWord_mark (sw : Sweep) (ok : Bool) (w : Word) (s : State) : trailerWord sw (some ok) w s =
    { s with link := { s.link with rx := .waitEnd sw ok (decide (w = 0x5AC3)) } } := rfl

/-- Settles O21: in TRAILER only the receiver state moves, by the comparison of the check word and then by the reading of
the mark word. -/
theorem trailerWords : Obligations.TrailerWords := by
  refine fun s sw w hup => ⟨fun hrx => ?check, fun ok hrx => ?mark⟩
  case check => rw [exec_diTrailerWord_of_up hup, wordOnDi_trailer hrx, trailerWord_check]
  case mark => rw [exec_diTrailerWord_of_up hup, wordOnDi_trailer hrx, trailerWord_mark]

end Sys2Proof.Machine
end

section
/-! SUPPORT. The table parcels WRITE, READ, COMMIT, FREEZE and THAW, and READ-SNAPSHOT (R96 to R107, R207): one section of
the table store seen at a time, what an addressed parcel of such a rule leaves of the node, and the rule of each kind. -/

namespace Sys2Proof.Machine

open Sys2Proof Sys2Proof.Safety

/-! ### One section of the table store -/

/-- The section of a code, seen with its five parts (R85). -/
def Tables.sec (t : Tables) : (c : SecCode) → Section c.size
  | .map => t.map
  | .curves => t.curves
  | .drive => t.drive
  | .policy => t.policy

theorem frozen_eq_sec (t : Tables) (c : SecCode) : t.frozen c = (t.sec c).frozen := by cases c <;> rfl

theorem pendingMark_eq_sec (t : Tables) (c : SecCode) : t.pendingMark c = (t.sec c).pending := by cases c <;> rfl

theorem gen_eq_sec (t : Tables) (c : SecCode) : t.gen c = (t.sec c).gen := by cases c <;> rfl

theorem copyWords_true_eq_sec (t : Tables) (c : SecCode) : t.copyWords c true = (t.sec c).shadow.toList := by
  cases c <;> rfl

theorem copyWords_false_eq_sec (t : Tables) (c : SecCode) : t.copyWords c false = (t.sec c).active.toList := by
  cases c <;> rfl

theorem sec_change (t : Tables) (c d : SecCode) (f : (n : Nat) → Section n → Section n) :
    (t.change c f).sec d = if d = c then f d.size (t.sec d) else t.sec d := by cases c <;> cases d <;> rfl

theorem sec_change_same (t : Tables) (c : SecCode) (f : (n : Nat) → Section n → Section n) :
    (t.change c f).sec c = f c.size (t.sec c) := (sec_change t c c f).trans (if_pos rfl)

theorem sec_change_of_ne {c d : SecCode} (h : d ≠ c) (t : Tables) (f : (n : Nat) → Section n → Section n) :
    (t.change c f).sec d = t.sec d := (sec_change t c d f).trans (if_neg h)

/-- The words of a section after a WRITE: the data from the offset on, the words before it elsewhere (R96). -/
theorem store_shadow_getD {n : Nat} (x : Section n) (off : Nat) (data : List Word) (o : Nat) :
    (x.store off data).shadow.toList.getD o 0 =
      if o < n ∧ off ≤ o ∧ o < off + data.length then data.getD (o - off) 0 else x.shadow.toList.getD o 0 := by
  by_cases ho : o < n <;> simp [Section.store, List.getD_eq_getElem?_getD, ho]

/-- A WRITE inside the section leaves its data in the shadow copy from the offset on (R96). -/
theorem copyWords_store_data {t : Tables} {c : SecCode} {off : Nat} {data : List Word}
    (h : off + data.length ≤ c.size) {i : Nat} (hi : i < data.length) :
    ((t.change c fun _ x => x.store off data).copyWords c true).getD (off + i) 0 = data.getD i 0 := by
  rw [copyWords_true_eq_sec, sec_change_same, store_shadow_getD, if_pos (by omega), Nat.add_sub_cancel_left]

/-- Every other word of every shadow copy is as before a WRITE (R96). -/
theorem copyWords_store_other {c d : SecCode} {off o : Nat} {data : List Word} (t : Tables)
    (h : d ≠ c ∨ o < off ∨ off + data.length ≤ o) :
    ((t.change c fun _ x => x.store off data).copyWords d true).getD o 0 = (t.copyWords d true).getD o 0 := by
  rw [copyWords_true_eq_sec, copyWords_true_eq_sec]
  by_cases hd : d = c
  · subst hd
    rw [sec_change_same, store_shadow_getD, if_neg]
    rintro ⟨-, hlo, hhi⟩
    rcases h with h | h | h
    · exact h rfl
    · omega
    · omega
  · rw [sec_change_of_ne hd]

/-- Active copies, generations and marks are as before a WRITE (R96). -/
theorem change_store_keeps (t : Tables) (c d : SecCode) (off : Nat) (data : List Word) :
    let u := t.change c fun _ x => x.store off data
    u.copyWords d false = t.copyWords d false ∧ u.gen d = t.gen d ∧ u.frozen d = t.frozen d ∧
      u.pendingMark d = t.pendingMark d := by
  simp only [copyWords_false_eq_sec, gen_eq_sec, frozen_eq_sec, pendingMark_eq_sec]
  by_cases hd : d = c
  · subst hd
    rw [sec_change_same]
    exact ⟨rfl, rfl, rfl, rfl⟩
  · rw [sec_change_of_ne hd]
    exact ⟨rfl, rfl, rfl, rfl⟩

/-- A THAW that acts clears the frozen mark of its section and changes nothing else of any section (R107). -/
theorem change_thaw (t : Tables) (c d : SecCode) :
    let u := t.change c fun _ x => x.thaw
    SameContent t u d ∧ u.pendingMark d = t.pendingMark d ∧ u.frozen d = (t.frozen d && decide (d ≠ c)) := by
  simp only [SameContent, copyWords_false_eq_sec, copyWords_true_eq_sec, gen_eq_sec, frozen_eq_sec,
    pendingMark_eq_sec]
  by_cases hd : d = c
  · subst hd
    rw [sec_change_same]
    simp [Section.thaw]
  · rw [sec_change_of_ne hd]
    simp [hd]

/-! ### Addressed execution of a rule that acts on the tables or on nothing -/

/-- The rule of a kind that acts on the table store alone. -/
def tableRule (f : Parcel → Tables → Tables × Answer) : ParcelRule := fun p s =>
  ({ s with tables := (f p s.tables).1 }, (f p s.tables).2)

/-- `s` after an addressed parcel of a recorded kind has left the tables and the answer `r`, with its entry in the history
and its reply; nothing else changes (R118 step 5, R122, R124). -/
def tablesAnswered (s : State) (k : ParcelKind) (p : Parcel) (rest : List Parcel) (r : Tables × Answer) : State :=
  answered
    { s with
      tables := r.1
      parcels := { s.parcels with history := historyAfter s.parcels.history k p.tag r.2.code } }
    p rest r.2.code false r.2.body

section
variable {s : State} {k : ParcelKind} {p : Parcel} {rest : List Parcel}

theorem runParcel_tableRule (h : AddressedTurn s k p rest) (hk : k.recorded = true)
    (f : Parcel → Tables → Tables × Answer) :
    whenUp s (runParcel k (tableRule f)) = .next (tablesAnswered s k p rest (f p s.tables)) := by
  rw [runParcel_addressed h]
  simp only [executeAddressed, tableRule, takeParcel_tables, takeParcel_parcels, addHistory_eq _ _ _ _ hk]
  rfl

theorem exec_write_of_turn (h : AddressedTurn s .write p rest) : exec .write s =
    .next (tablesAnswered s .write p rest (s.tables.write (p.bodyAt 0) (p.body.drop 1))) :=
  runParcel_tableRule h rfl fun p t => t.write (p.bodyAt 0) (p.body.drop 1)

theorem exec_commit_of_turn (h : AddressedTurn s .commit p rest) : exec .commit s =
    .next (tablesAnswered s .commit p rest (s.tables.commit (sectionSet (p.bodyAt 0)))) :=
  runParcel_tableRule h rfl fun p t => t.commit (sectionSet (p.bodyAt 0))

theorem exec_freeze_of_turn (h : AddressedTurn s .freeze p rest) : exec .freeze s =
    .next (tablesAnswered s .freeze p rest (s.tables.freeze (sectionSet (p.bodyAt 0)))) :=
  runParcel_tableRule h rfl fun p t => t.freeze (sectionSet (p.bodyAt 0))

theorem exec_thaw_of_turn (h : AddressedTurn s .thaw p rest) : exec .thaw s =
    .next (tablesAnswered s .thaw p rest (s.tables.thaw (p.bodyAt 0) (p.bodyAt 1))) :=
  runParcel_tableRule h rfl fun p t => t.thaw (p.bodyAt 0) (p.bodyAt 1)

/-- An addressed parcel of a kind that is not recorded and only reads leaves its reply and changes nothing else (R118
step 5, R122). -/
theorem runParcel_readOnly (h : AddressedTurn s k p rest) (hk : k.recorded = false) (ans : Parcel → State → Answer) :
    whenUp s (runParcel k fun p s => (s, ans p s)) = .next (answered s p rest (ans p (takeParcel rest s)).code false
      (ans p (takeParcel rest s)).body) := by
  rw [runParcel_addressed h]
  simp only [executeAddressed, addHistory, hk, or_true, if_true]
  rfl

theorem exec_read_of_turn (h : AddressedTurn s .read p rest) : exec .read s =
    .next (answered s p rest (s.tables.read (p.bodyAt 0) (p.bodyAt 1)).code false
      (s.tables.read (p.bodyAt 0) (p.bodyAt 1)).body) :=
  runParcel_readOnly h rfl fun p s => s.tables.read (p.bodyAt 0) (p.bodyAt 1)

theorem exec_readSnapshot_of_turn (h : AddressedTurn s .readSnapshot p rest) : exec .readSnapshot s =
    .next (answered s p rest (snapshotAnswer s.snap (p.bodyAt 0) (p.bodyAt 1)).code false
      (snapshotAnswer s.snap (p.bodyAt 0) (p.bodyAt 1)).body) :=
  runParcel_readOnly h rfl fun p s => snapshotAnswer s.snap (p.bodyAt 0) (p.bodyAt 1)

end

/-! ### WRITE (R96) -/

theorem offsetOf_eq (w : Word) : offsetOf w = w.toNat % 128 := by
  simp [offsetOf, bitsAt_eq]

section
variable (t : Tables) (w0 : Word) (data : List Word)

theorem write_of_frozen (h : t.frozen (sectionOf w0) = true) :
    t.write w0 data = (t, ⟨.refusedFrozen, [sectionWord (sectionOf w0)]⟩) := if_pos h

theorem write_of_pending (h1 : ¬ t.frozen (sectionOf w0) = true) (h2 : t.pendingMark (sectionOf w0) = true) :
    t.write w0 data = (t, ⟨.refusedPending, [sectionWord (sectionOf w0)]⟩) :=
  (if_neg h1).trans (if_pos h2)

theorem write_of_range (h1 : ¬ t.frozen (sectionOf w0) = true) (h2 : ¬ t.pendingMark (sectionOf w0) = true)
    (h3 : (sectionOf w0).size < offsetOf w0 + data.length) : t.write w0 data = (t, ⟨.refusedRange, []⟩) :=
  (if_neg h1).trans ((if_neg h2).trans (if_pos h3))

theorem write_done (h1 : ¬ t.frozen (sectionOf w0) = true) (h2 : ¬ t.pendingMark (sectionOf w0) = true)
    (h3 : ¬ (sectionOf w0).size < offsetOf w0 + data.length) : t.write w0 data =
      (t.change (sectionOf w0) fun _ x => x.store (offsetOf w0) data, ⟨.done, []⟩) :=
  (if_neg h1).trans ((if_neg h2).trans (if_neg h3))

end

/-- Settles O30: the section, offset and data are those of the parcel's body; the four outcomes of a WRITE are taken in the
order of its checks, and the last one by the words that a store leaves in each copy. -/
theorem writeChecksThenStores : Obligations.WriteChecksThenStores := by
  intro s p rest hturn hwhole
  have hlen : (p.body.drop 1).length = p.len - 1 := by rw [List.length_drop, hwhole]
  refine ⟨sectionOf (p.bodyAt 0), offsetOf (p.bodyAt 0), p.body.drop 1,
    (s.tables.write (p.bodyAt 0) (p.body.drop 1)).1, (s.tables.write (p.bodyAt 0) (p.body.drop 1)).2.code,
    (s.tables.write (p.bodyAt 0) (p.body.drop 1)).2.body, sectionOf_value _, offsetOf_eq _, rfl, hlen,
    exec_write_of_turn hturn, ?_⟩
  split
  case isTrue hf => rw [write_of_frozen _ _ _ hf]; exact ⟨rfl, rfl, rfl⟩
  case isFalse hf =>
    split
    case isTrue hp => rw [write_of_pending _ _ _ hf hp]; exact ⟨rfl, rfl, rfl⟩
    case isFalse hp =>
      split
      case isTrue hr => rw [write_of_range _ _ _ hf hp hr]; exact ⟨rfl, rfl, rfl⟩
      case isFalse hr =>
        rw [write_done _ _ _ hf hp hr]
        exact ⟨rfl, rfl, fun i hi => copyWords_store_data (by omega) hi, fun d o => copyWords_store_other _,
          fun d => change_store_keeps _ _ d _ _⟩

/-! ### READ and READ-SNAPSHOT (R97, R207) -/

theorem namesShadow_iff (w : Word) : namesShadow w = true ↔ w.toNat / 8192 % 2 = 1 := by
  simp [namesShadow, BitVec.getLsbD, Nat.testBit_eq_decide_div_mod_eq]

theorem read_eq (t : Tables) (w0 w1 : Word) : t.read w0 w1 =
    if w1.toNat = 0 ∨ 32 < w1.toNat ∨ (sectionOf w0).size < offsetOf w0 + w1.toNat then ⟨.refusedRange, []⟩
    else ⟨.done, (List.range w1.toNat).map fun i =>
      (t.copyWords (sectionOf w0) (namesShadow w0)).getD (offsetOf w0 + i) 0⟩ := by
  refine if_ctx_congr Iff.rfl (fun _ => rfl) fun h => ?_
  rw [take_drop_eq _ _ _ (by rw [copyWords_length]; omega)]

theorem snapshotAnswer_eq (x : Snap) (w0 w1 : Word) : snapshotAnswer x w0 w1 =
    if x.valid = false then ⟨.refusedNone, []⟩
    else if w1.toNat = 0 ∨ 32 < w1.toNat ∨ 74 < w0.toNat + w1.toNat then ⟨.refusedRange, []⟩
    else ⟨.done, (List.range w1.toNat).map fun i => x.image.toList.getD (w0.toNat + i) 0⟩ := by
  refine if_congr Iff.rfl rfl (if_ctx_congr Iff.rfl (fun _ => rfl) fun h => ?_)
  rw [take_drop_eq _ _ _ (by rw [Vector.length_toList]; omega)]

/-- Settles O31: both kinds only read; the range checked is the one in which the words taken from the offset on are those
at the offsets named. -/
theorem readsAnswered : Obligations.ReadsAnswered := by
  refine ⟨fun s p rest hturn => ?read, fun s p rest hturn => ?snapshot⟩
  case read =>
    refine ⟨sectionOf (p.bodyAt 0), offsetOf (p.bodyAt 0), (p.bodyAt 1).toNat, namesShadow (p.bodyAt 0),
      sectionOf_value _, offsetOf_eq _, rfl, namesShadow_iff _, ?_⟩
    rw [exec_read_of_turn hturn, read_eq]
    split <;> rfl
  case snapshot =>
    refine ⟨(p.bodyAt 0).toNat, (p.bodyAt 1).toNat, rfl, rfl, ?_⟩
    rw [exec_readSnapshot_of_turn hturn, snapshotAnswer_eq]
    split
    · rfl
    · split <;> rfl

/-! ### COMMIT (R99, R100) -/

theorem commit_of_refusal {t : Tables} {cs : List SecCode} {a : Answer} (h : t.commitRefusal cs = some a) :
    t.commit cs = (t, a) := by
  cases cs with
  | nil => cases h
  | cons c cs => simp only [Tables.commit, h]

theorem commit_accepted {t : Tables} {cs : List SecCode} (hne : cs ≠ []) (h : t.commitRefusal cs = none) :
    t.commit cs = (t.changeEach cs fun _ x => x.accept,
      ⟨.accepted, (t.changeEach cs fun _ x => x.accept).announcedGens⟩) := by
  cases cs with
  | nil => exact absurd rfl hne
  | cons c cs => simp only [Tables.commit, h]

/-- What ACCEPTED announces of each section: the generation after the next swap when it is pending (R100). -/
theorem announcedGens_eq (t : Tables) : t.announcedGens = [SecCode.map, .curves, .drive, .policy].map fun d =>
    if t.pendingMark d then (if t.gen d = 65535 then 1 else t.gen d + 1) else t.gen d := rfl

/-- Settles O32: a COMMIT has an empty set, or is refused by its first section that does not pass, or sets the pending mark
of each section of its set. -/
theorem commitAllOrNone : Obligations.CommitAllOrNone := by
  intro s p rest hturn
  refine ⟨sectionSet (p.bodyAt 0), (s.tables.commit (sectionSet (p.bodyAt 0))).1,
    (s.tables.commit (sectionSet (p.bodyAt 0))).2.code, (s.tables.commit (sectionSet (p.bodyAt 0))).2.body,
    sectionSet_eq _, exec_commit_of_turn hturn, ?_⟩
  generalize sectionSet (p.bodyAt 0) = cs
  rcases commitRefusal_cases s.tables cs with ⟨hnone, hpass⟩ | ⟨pre, c, post, a, hcs, hpre, hsome, hwhy⟩
  case inl =>
    by_cases hempty : cs = []
    case pos => subst hempty; exact .inl ⟨rfl, rfl, rfl, rfl⟩
    case neg =>
      rw [commit_accepted hempty hnone]
      exact .inr (.inl ⟨hempty, hpass, rfl, fun d => changeEach_accept cs s.tables d, announcedGens_eq _⟩)
  case inr =>
    rw [commit_of_refusal hsome]
    refine .inr (.inr ⟨pre, c, post, hcs, hpre, rfl, ?_⟩)
    rcases hwhy with ⟨hf, rfl⟩ | ⟨hf, hp, rfl⟩ | ⟨hf, hp, o, ho, rfl⟩
    case inl => exact .inl ⟨hf, rfl, rfl⟩
    case inr.inl => exact .inr (.inl ⟨hf, hp, rfl, rfl⟩)
    case inr.inr =>
      obtain ⟨hlt, hoff, hfirst⟩ := firstOffending_some ho
      exact .inr (.inr ⟨hf, hp, rfl, o, hlt, hoff, hfirst, rfl⟩)

/-! ### FREEZE and THAW (R106, R107) -/

theorem thaw_of_thawed {t : Tables} {w0 : Word} (h : t.frozen (sectionOf w0) = false) (g : Word) :
    t.thaw w0 g = (t, ⟨.done, []⟩) := if_pos (by rw [h]; rfl)

theorem thaw_of_gen_eq {t : Tables} {w0 g : Word} (h : t.frozen (sectionOf w0) = true)
    (hg : t.gen (sectionOf w0) = g) :
    t.thaw w0 g = (t.change (sectionOf w0) fun _ x => x.thaw, ⟨.done, []⟩) :=
  (if_neg (by simp [h])).trans (if_pos hg.symm)

theorem thaw_of_gen_ne {t : Tables} {w0 g : Word} (h : t.frozen (sectionOf w0) = true)
    (hg : t.gen (sectionOf w0) ≠ g) :
    t.thaw w0 g = (t, ⟨.refusedGen, [sectionWord (sectionOf w0), t.gen (sectionOf w0)]⟩) :=
  (if_neg (by simp [h])).trans (if_neg hg.symm)

/-- Settles O34: a FREEZE sets a mark for each section of its set; a THAW acts only on a frozen section whose generation is
the one named. -/
theorem freezeAndThaw : Obligations.FreezeAndThaw := by
  refine ⟨fun s p rest hturn => ?freeze, fun s p rest hturn => ?thaw⟩
  case freeze =>
    refine ⟨(s.tables.freeze (sectionSet (p.bodyAt 0))).1, exec_freeze_of_turn hturn, fun d => ?_⟩
    rw [← sectionSet_eq]
    exact changeEach_freeze _ _ d
  case thaw =>
    refine ⟨sectionOf (p.bodyAt 0), (s.tables.thaw (p.bodyAt 0) (p.bodyAt 1)).1,
      (s.tables.thaw (p.bodyAt 0) (p.bodyAt 1)).2.code, (s.tables.thaw (p.bodyAt 0) (p.bodyAt 1)).2.body,
      sectionOf_value _, exec_thaw_of_turn hturn, ?_⟩
    have hsame : ∀ d, SameContent s.tables s.tables d := fun d => ⟨rfl, rfl, rfl⟩
    cases hf : s.tables.frozen (sectionOf (p.bodyAt 0)) with
    | false =>
      rw [thaw_of_thawed hf, if_neg (by simp)]
      exact ⟨fun d => ⟨hsame d, rfl, fun _ => rfl⟩, rfl, rfl, hf⟩
    | true =>
      by_cases hg : s.tables.gen (sectionOf (p.bodyAt 0)) = p.bodyAt 1
      case pos =>
        have hthaw := change_thaw s.tables (sectionOf (p.bodyAt 0))
        rw [thaw_of_gen_eq hf hg, if_neg fun h => h.2 hg]
        refine ⟨fun d => ?_, rfl, rfl, ?_⟩
        · obtain ⟨hcontent, hpending, hfrozen⟩ := hthaw d
          exact ⟨hcontent, hpending, fun hd => by simp [hfrozen, hd]⟩
        · obtain ⟨-, -, hfrozen⟩ := hthaw (sectionOf (p.bodyAt 0))
          simp [hfrozen]
      case neg =>
        rw [thaw_of_gen_ne hf hg, if_pos ⟨rfl, hg⟩]
        exact ⟨fun d => ⟨hsame d, rfl, fun _ => rfl⟩, rfl, rfl, hf⟩

end Sys2Proof.Machine
end

section
/-! SUPPORT. The records at a cycle completion (R151, R158): the command while no reset lasts, the records it leaves, and the
move of one record by one sample. -/

namespace Sys2Proof.Machine

open Sys2Proof Sys2Proof.Safety

/-! ### The records that a cycle completion leaves -/

/-- A notice that joins may empty the changed set, never a record (R139). -/
@[simp] theorem joinNotices_records (s : State) : (joinNotices s).diag.records = s.diag.records :=
  (joinNotices_same s).records

theorem exec_cycleCompletion_of_running {s : State} (hup : Up s) (hrun : s.drive.running = true) (obs : CycleObs) :
    exec (.cycleCompletion obs) s = .next (completeCycle obs s) :=
  (whenUp_of_up hup _).trans (congrArg _ (if_pos hrun))

/-- Whether or not notices join after the samples, the records are those of the samples. -/
theorem completeCycle_records (obs : CycleObs) (s : State) :
    (completeCycle obs s).diag.records = (s.diagAfter obs).records := by
  unfold completeCycle
  dsimp only
  split
  · rw [joinNotices_records]
  · rfl

/-- Each record is its sampled one, with the seen mark set at a confirmation (R160). -/
theorem completeCycle_record (obs : CycleObs) (s : State) (i : Fin 63) : (completeCycle obs s).diag.records[i] =
    { s.sampled obs i with seen := s.diag.records[i].seen || s.confirmsAt obs i } := by
  rw [completeCycle_records]
  exact Vector.getElem_ofFn _

/-! ### The debounce table (R158) -/

section
variable (C K run : Nat) (seen : Bool)

@[simp] theorem debounce_noSample (r : FaultRec) : debounce C K r .noSample = r := rfl

theorem debounce_clear_pass : debounce C K ⟨.clear, run, seen⟩ .pass = ⟨.clear, 0, seen⟩ := rfl

theorem debounce_clear_fail : debounce C K ⟨.clear, run, seen⟩ .fail =
    if C = 1 then ⟨.confirmed, 0, seen⟩ else ⟨.suspect, 1, seen⟩ := rfl

theorem debounce_suspect_pass : debounce C K ⟨.suspect, run, seen⟩ .pass = ⟨.clear, 0, seen⟩ := rfl

theorem debounce_suspect_fail : debounce C K ⟨.suspect, run, seen⟩ .fail =
    if C ≤ run + 1 then ⟨.confirmed, 0, seen⟩ else ⟨.suspect, run + 1, seen⟩ := rfl

theorem debounce_confirmed_pass : debounce C K ⟨.confirmed, run, seen⟩ .pass =
    if K = 1 then ⟨.clear, 0, seen⟩ else ⟨.recovering, 1, seen⟩ := rfl

theorem debounce_confirmed_fail : debounce C K ⟨.confirmed, run, seen⟩ .fail = ⟨.confirmed, 0, seen⟩ := rfl

theorem debounce_recovering_pass : debounce C K ⟨.recovering, run, seen⟩ .pass =
    if K ≤ run + 1 then ⟨.clear, 0, seen⟩ else ⟨.recovering, run + 1, seen⟩ := rfl

theorem debounce_recovering_fail : debounce C K ⟨.recovering, run, seen⟩ .fail = ⟨.confirmed, 0, seen⟩ := rfl

end

/-- Settles O45: a cycle completion leaves each record as its sample debounces it, and the debounce is the table, row by row;
a row that counts is decided by the count reached. -/
theorem debounceTable : Obligations.DebounceTable := by
  intro s obs i hup hrun
  refine ⟨completeCycle obs s, _, _, _, exec_cycleCompletion_of_running hup hrun obs, rfl, rfl, rfl, ?_⟩
  rw [completeCycle_record, State.sampled]
  generalize polConfirm s.tables.policy.active = C
  generalize polClear s.tables.policy.active = K
  generalize s.diag.records[i] = r
  obtain ⟨state, run, seen⟩ := r
  cases s.sampleOf obs i with
  | noSample => rw [debounce_noSample]; cases state <;> rfl
  | pass =>
    cases state with
    | clear => rw [debounce_clear_pass]
    | suspect => rw [debounce_suspect_pass]
    | confirmed => rw [debounce_confirmed_pass]; split <;> rfl
    | recovering => rw [debounce_recovering_pass]; split <;> rfl
  | fail =>
    cases state with
    | clear => rw [debounce_clear_fail]; split <;> rfl
    | suspect => rw [debounce_suspect_fail]; split <;> rfl
    | confirmed => rw [debounce_confirmed_fail]
    | recovering => rw [debounce_recovering_fail]

end Sys2Proof.Machine
end

section
/-! SUPPORT. The fault line (R209): what each condition that is computed from several fields says, and the level of the
line. -/

namespace Sys2Proof.Machine

/-- A record stands in two of its four states (R150). -/
theorem RecState.standing_iff (r : RecState) : r.standing = true ↔ r = .confirmed ∨ r = .recovering := by
  cases r <;> decide

/-- A record's policy is that of its channel, the remainder of its index by 16 (R150, R162). -/
theorem recPolicy_eq (drive : Vector Word 33) (i : Fin 63) : recPolicy drive i = drivePolicy drive (i.val % 16) := rfl

/-! ### The conditions of the fault line (R209) -/

theorem State.fltReset_iff (s : State) : s.fltReset = true ↔ s.pins.rstnLow = true ∨ s.pins.phase ≠ .up := by
  rw [fltReset, Bool.or_eq_true, bne_iff_ne]

theorem State.fltFault_iff (s : State) : s.fltFault = true ↔
    ∃ i : Fin 63, (s.diag.records[i].state = .confirmed ∨ s.diag.records[i].state = .recovering) ∧
      drivePolicy s.tables.drive.active (i.val % 16) ≠ .quiet := by
  simp only [fltFault, List.any_eq_true, List.mem_finRange, true_and, Bool.and_eq_true, RecState.standing_iff, bne_iff_ne,
    recPolicy_eq]

theorem State.fltHeat_iff (s : State) : s.fltHeat = true ↔ s.thermal.band = .hot ∨ s.thermal.band = .critical := by
  rw [fltHeat, Bool.or_eq_true, beq_iff_eq, beq_iff_eq]

/-- Settles O7: the level is VCC's range and the or of the six conditions, and each condition is read by its own lemma. -/
theorem faultLineLevel : Obligations.FaultLineLevel := by
  intro s
  simp only [State.fltLow, Bool.and_eq_true, Bool.or_eq_true, bne_iff_ne, beq_iff_eq, State.fltReset_iff,
    State.fltFault_iff, State.fltHeat_iff, or_assoc]

end Sys2Proof.Machine
end

section
/-! SUPPORT. What keeps the sections of the table store sound (R90, R101, R102), and the bound of an on-time that valid
sections give (R71): the invariant of the table store and of the values taken for a cycle. -/

namespace Sys2Proof.Machine

open Sys2Proof Sys2Proof.Safety

/-! ### One section at a time -/

/-- A copy of the section of a code is valid (R90). -/
def ValidCopy : (c : SecCode) → Vector Word c.size → Prop
  | .map => MapValid
  | .curves => CurvesValid
  | .drive => DriveValid
  | .policy => PolicyValid

/-- Every section of a table store is sound. -/
def SoundTables (t : Tables) : Prop := ∀ c, SectionSound (ValidCopy c) (t.sec c)

theorem tablesSound_iff (s : State) : TablesSound s ↔ SoundTables s.tables := by
  refine ⟨fun ⟨hmap, hcurves, hdrive, hpolicy⟩ c => ?_, fun h => ⟨h .map, h .curves, h .drive, h .policy⟩⟩
  cases c
  · exact hmap
  · exact hcurves
  · exact hdrive
  · exact hpolicy

/-- A section of the list is changed once or several times alike, another is not (R85). -/
theorem sec_changeEach (f : (n : Nat) → Section n → Section n) (hf : ∀ n x, f n (f n x) = f n x) (cs : List SecCode)
    (t : Tables) (d : SecCode) :
    (t.changeEach cs f).sec d = if d ∈ cs then f d.size (t.sec d) else t.sec d := by
  unfold Tables.changeEach
  induction cs generalizing t with
  | nil => rfl
  | cons c cs ih =>
    rw [List.foldl_cons, ih, sec_change]
    by_cases hc : d = c <;> by_cases hd : d ∈ cs <;> simp [hc, hd, hf]

theorem sec_changeAll (f : (n : Nat) → Section n → Section n) (t : Tables) (d : SecCode) :
    (t.changeAll f).sec d = f d.size (t.sec d) := by cases d <;> rfl

/-! ### What keeps the sections sound -/

theorem SoundTables.change {t : Tables} (h : SoundTables t) (c : SecCode) (f : (n : Nat) → Section n → Section n)
    (hf : SectionSound (ValidCopy c) (t.sec c) → SectionSound (ValidCopy c) (f c.size (t.sec c))) :
    SoundTables (t.change c f) := by
  intro d
  rw [sec_change]
  split
  case isTrue hd => subst hd; exact hf (h d)
  case isFalse => exact h d

theorem SoundTables.changeEach {t : Tables} (h : SoundTables t) (cs : List SecCode)
    (f : (n : Nat) → Section n → Section n) (hidem : ∀ n x, f n (f n x) = f n x)
    (hf : ∀ c ∈ cs, SectionSound (ValidCopy c) (t.sec c) → SectionSound (ValidCopy c) (f c.size (t.sec c))) :
    SoundTables (t.changeEach cs f) := by
  intro d
  rw [sec_changeEach f hidem]
  split
  case isTrue hd => exact hf d hd (h d)
  case isFalse => exact h d

/-- A swap brings the valid shadow copy of a pending section into force (R101, R102). -/
theorem sectionSound_swap {n : Nat} {valid : Vector Word n → Prop} {x : Section n} (h : SectionSound valid x) :
    SectionSound valid x.swap := by
  unfold Section.swap
  split
  case isTrue hp => exact ⟨h.2 hp, fun hc => by cases hc⟩
  case isFalse => exact h

theorem SoundTables.swap {t : Tables} (h : SoundTables t) : SoundTables t.swap := fun c => by
  rw [Tables.swap, sec_changeAll]; exact sectionSound_swap (h c)

/-- A RESTART leaves no section pending (R89). -/
theorem SoundTables.cancel {t : Tables} (h : SoundTables t) : SoundTables t.cancel := fun c => by
  rw [Tables.cancel, sec_changeAll]; exact ⟨(h c).1, fun hc => by cases hc⟩

/-- A WRITE stores in a section that is not pending (R96). -/
theorem SoundTables.write {t : Tables} (h : SoundTables t) (w0 : Word) (data : List Word) :
    SoundTables (t.write w0 data).1 := by
  unfold Tables.write
  dsimp only
  split
  · exact h
  · split
    · exact h
    case isFalse hp =>
      split
      · exact h
      · refine h.change _ _ fun hs => ⟨hs.1, fun hc => ?_⟩
        rw [pendingMark_eq_sec] at hp
        exact absurd hc hp

/-- A section that passes the checks of a COMMIT has a valid shadow copy (R99). -/
theorem passesCommit_valid {t : Tables} {c : SecCode} (h : PassesCommit t c) : ValidCopy c (t.sec c).shadow := by
  cases c <;> exact h.2.2

/-- A COMMIT sets pending marks over valid shadow copies alone (R99, R100). -/
theorem SoundTables.commit {t : Tables} (h : SoundTables t) (cs : List SecCode) : SoundTables (t.commit cs).1 := by
  by_cases hempty : cs = []
  · subst hempty; exact h
  · rcases commitRefusal_cases t cs with ⟨hnone, hpass⟩ | ⟨_, _, _, a, _, _, hsome, _⟩
    · rw [commit_accepted hempty hnone]
      exact h.changeEach cs _ (fun _ _ => rfl) fun c hc hs => ⟨hs.1, fun _ => passesCommit_valid (hpass c hc)⟩
    · rw [commit_of_refusal hsome]; exact h

/-- A DISCARD copies valid active copies (R98). -/
theorem SoundTables.discard {t : Tables} (h : SoundTables t) (cs : List SecCode) : SoundTables (t.discard cs).1 := by
  unfold Tables.discard
  split
  · exact h
  · exact h.changeEach cs _ (fun _ _ => rfl) fun c _ hs => ⟨hs.1, fun _ => hs.1⟩

theorem SoundTables.freeze {t : Tables} (h : SoundTables t) (cs : List SecCode) : SoundTables (t.freeze cs).1 :=
  h.changeEach cs _ (fun _ _ => rfl) fun _ _ hs => hs

theorem SoundTables.thaw {t : Tables} (h : SoundTables t) (w0 g : Word) : SoundTables (t.thaw w0 g).1 := by
  unfold Tables.thaw
  dsimp only
  split
  · exact h
  · split
    · exact h.change _ _ fun hs => hs
    · exact h

/-! ### The power-on contents -/

/-- The power-on contents of every section are valid (R88). -/
theorem powerOnWords_valid :
    MapValid mapWords0 ∧ CurvesValid curvesWords0 ∧ DriveValid driveWords0 ∧ PolicyValid policyWords0 := by
  unfold MapValid CurvesValid DriveValid PolicyValid
  decide +kernel

/-- A section at power-on is sound when its contents are valid (R88). -/
theorem sectionSound_powerOn {n : Nat} {valid : Vector Word n → Prop} {w : Vector Word n} (h : valid w) :
    SectionSound valid (Section.powerOn w) := ⟨h, fun _ => h⟩

theorem soundTables_reset : SoundTables State.reset.tables := fun c => by
  obtain ⟨hmap, hcurves, hdrive, hpolicy⟩ := powerOnWords_valid
  cases c
  · exact sectionSound_powerOn hmap
  · exact sectionSound_powerOn hcurves
  · exact sectionSound_powerOn hdrive
  · exact sectionSound_powerOn hpolicy

@[simp] theorem beginReset_tables (p : Pins) (s : State) : (beginReset p s).tables = State.reset.tables := rfl

/-! ### Where sections are swapped and where their pending marks are cancelled -/

/-- The word on DI that completes a valid header swaps the pending sections, every other word leaves the tables (R102). -/
theorem wordOnDi_tables (w : Word) (s : State) :
    (wordOnDi w s).tables = if (headerKind s w).isSome then s.tables.swap else s.tables := by
  cases h : s.link.rx with
  | header got =>
    rw [wordOnDi_header h]
    match got with
    | [] => simp [headerWord, headerKind, h]
    | [w0] => simp [headerWord, headerKind, h]
    | w0 :: w1 :: _ =>
      simp only [headerWord, headerKind, h]
      cases hj : judgeHeader w0 w <;> simp [acceptHeader]
  | parcels sw left pos =>
    simp only [wordOnDi, h, headerKind, Option.isSome_none, Bool.false_eq_true, if_false, parcelWord_tables]
  | _ => simp [wordOnDi, h, headerKind]

/-- A RESTART that is executed cancels the pending marks; nothing else does anything to the tables (R89). -/
theorem runRestart_tables (s : State) : (runRestart s).tables = s.tables ∨ (runRestart s).tables = s.tables.cancel := by
  have hb : (restartBlocks s).tables = s.tables.cancel := by simp [restartBlocks]
  unfold runRestart addressedSteps executeAddressed
  repeat' split
  all_goals simp [hb]

/-- The sections stay sound at every operation (R90, R101). -/
theorem soundTables_keeps : Keeps fun s => SoundTables s.tables where
  reset _ _ := soundTables_reset
  pins _ _ h := h
  ended _ h := by simpa using h
  start _ h := by simpa using h
  word w s h := by
    rw [wordOnDi_tables]
    split
    · exact h.swap
    · exact h
  done _ h := by simpa using h
  flow _ _ h := h
  again _ h := by simpa using h
  send _ h := h
  take _ _ _ h _ _ := h
  lose _ h := h
  rep _ _ _ _ _ h _ := h
  history _ _ _ _ h := h
  write _ w0 data h := h.write w0 data
  commit _ cs h := h.commit cs
  discard _ cs h := h.discard cs
  freeze _ cs h := h.freeze cs
  thaw _ w0 g h := h.thaw w0 g
  image _ _ h := h
  ack _ h := h
  clear _ _ h := by simpa using h
  restart s h := by
    rcases runRestart_tables s with e | e <;> rw [e]
    · exact h
    · exact h.cancel
  cycle _ h _ := h
  complete _ _ h := by simpa using h
  sample _ _ _ h := by simpa using h
  watch _ h _ := by simpa using h
  hold _ h _ := by simpa using h
  transmit _ h := by simpa using h
  sent _ h := h
  riStart _ h := by simpa using h
  riEnd _ _ h := by simpa using h

/-! ### The bound of an on-time (R71) -/

theorem curvePoint_le {v : Vector Word 68} (h : CurvesValid v) {c i : Nat} (hi : 17 * c + i < 68) :
    curvePoint v c i ≤ 4096 := by
  have hv := h _ hi
  simp only [curvesOffends, Bool.or_eq_false_iff, decide_eq_false_iff_not, not_lt] at hv
  exact hv.1

/-- Between two points of a curve the on-time is at most the higher of them (R67). -/
theorem interpolate_le {a b m f : Nat} (ha : a ≤ m) (hb : b ≤ m) (hf : f ≤ 4096) : a + (b - a) * f / 4096 ≤ m := by
  have : (b - a) * f / 4096 ≤ b - a := Nat.div_le_of_le_mul (by rw [Nat.mul_comm]; exact Nat.mul_le_mul_right _ hf)
  omega

theorem curveOnTime_le {v : Vector Word 68} (h : CurvesValid v) (code : Nat) (level : Word) :
    curveOnTime v code level ≤ 4096 := by
  have hx := level.isLt
  unfold curveOnTime
  dsimp only
  split
  · exact interpolate_le (curvePoint_le h (by omega)) (curvePoint_le h (by omega)) (by omega)
  · omega

theorem derate_le {v : Vector Word 25} (h : PolicyValid v) (b : Band) : derate v b ≤ 256 := by
  have hw := h 4 (by omega)
  have hh := h 5 (by omega)
  simp only [policyOffends, Bool.or_eq_false_iff, decide_eq_false_iff_not, not_lt] at hw hh
  cases b with
  | normal => exact le_refl _
  | warm => exact hw
  | hot => exact hh.1
  | critical => exact Nat.zero_le _

/-- Under valid sections no effective on-time passes 4096 (R71). -/
theorem effOnTime_le {s : State} (h : SoundTables s.tables) (c : Fin 16) : s.effOnTime c ≤ 4096 := by
  have hc : curveOnTime s.tables.curves.active (curveCode s.activeMap c) (s.displayed c) ≤ 4096 :=
    curveOnTime_le (h .curves).1 _ _
  have hd : derate s.tables.policy.active s.thermal.band ≤ 256 := derate_le (h .policy).1 _
  unfold State.effOnTime
  split
  · exact Nat.zero_le _
  · have := Nat.mul_le_mul hc hd
    exact Nat.div_le_of_le_mul (by omega)

/-! ### The on-times taken for a cycle (R78) -/

/-- Every on-time of a drive unit is at most 4096. -/
def SoundOnTimes (d : Drive) : Prop := ∀ c : Fin 16, d.ch[c].onTime ≤ 4096

@[simp] theorem cutOutputs_ch (n : Nat) (d : Drive) (c : Fin 16) : (cutOutputs n d).ch[c] = { d.ch[c] with off :=
    match d.ch[c].off with
    | .clear => .cutAt n
    | .fromStart => .fromStart
    | .cutAt m => .cutAt m } := Vector.getElem_ofFn _

theorem startCycle_ch (s : State) (c : Fin 16) : (startCycle s).drive.ch[c] = s.takenAtStart c := Vector.getElem_ofFn _

theorem SoundOnTimes.startCycle {s : State} (h : SoundTables s.tables) : SoundOnTimes (startCycle s).drive := fun c => by
  rw [startCycle_ch]; exact effOnTime_le h c

/-- A thermal sample leaves the drive unit as it is, or cuts its outputs (R80). -/
theorem sampleTemperature_drive (m : Int) (n : Nat) (s : State) :
    (sampleTemperature m n s).drive = if newBand s.tables.policy.active (readingOf m) s.thermal.band = .critical ∧
      s.thermal.band ≠ .critical then cutOutputs n s.drive else s.drive := by
  unfold sampleTemperature
  dsimp only
  generalize newBand s.tables.policy.active (readingOf m) s.thermal.band = b
  by_cases hb : b = s.thermal.band
  · subst hb; simp
  · by_cases hc : b = .critical
    · subst hc; simp [hb, Ne.symm hb]
    · simp [hb, hc]

@[simp] theorem completeCycle_drive (obs : CycleObs) (s : State) :
    (completeCycle obs s).drive = { s.drive with running := false } := by
  unfold completeCycle
  dsimp only
  split <;> simp

@[simp] theorem endReset_drive (s : State) : (endReset s).drive = (startCycle s).drive := rfl

/-- Sound sections and on-times within the cycle stay so at every operation (R71, R78). -/
theorem soundOnTimes_keeps : Keeps fun s => SoundTables s.tables ∧ SoundOnTimes s.drive where
  reset _ _ := ⟨soundTables_reset, by unfold SoundOnTimes; simp [beginReset, powerOnValues]⟩
  pins _ _ h := h
  ended s h := ⟨soundTables_keeps.ended s h.1, .startCycle h.1⟩
  start s h := ⟨soundTables_keeps.start s h.1, by simpa using h.2⟩
  word w s h := ⟨soundTables_keeps.word w s h.1, by simpa using h.2⟩
  done s h := ⟨soundTables_keeps.done s h.1, by simpa using h.2⟩
  flow _ _ h := h
  again _ h := by simpa using h
  send _ h := h
  take _ _ _ h _ _ := h
  lose _ h := h
  rep _ _ _ _ _ h _ := h
  history _ _ _ _ h := h
  write _ w0 data h := ⟨h.1.write w0 data, h.2⟩
  commit _ cs h := ⟨h.1.commit cs, h.2⟩
  discard _ cs h := ⟨h.1.discard cs, h.2⟩
  freeze _ cs h := ⟨h.1.freeze cs, h.2⟩
  thaw _ w0 g h := ⟨h.1.thaw w0 g, h.2⟩
  image _ _ h := h
  ack _ h := h
  clear _ _ h := by simpa using h
  restart s h := ⟨soundTables_keeps.restart s h.1, by simpa using h.2⟩
  cycle _ h _ := ⟨h.1, .startCycle h.1⟩
  complete obs s h := ⟨soundTables_keeps.complete obs s h.1, by simpa [SoundOnTimes] using h.2⟩
  sample m n s h := by
    refine ⟨soundTables_keeps.sample m n s h.1, fun c => ?_⟩
    rw [sampleTemperature_drive]
    split
    · rw [cutOutputs_ch]; exact h.2 c
    · exact h.2 c
  watch _ h _ := by simpa using h
  hold _ h _ := by simpa using h
  transmit _ h := by simpa using h
  sent _ h := h
  riStart _ h := by simpa using h
  riEnd _ _ h := by simpa using h

/-- Settles O54: the sections stay sound operation by operation, and under sound sections a cycle start takes no on-time
above 4096. -/
theorem activeCopiesStayValid : Obligations.ActiveCopiesStayValid := by
  intro s t hstep hs
  rw [tablesSound_iff] at hs
  refine ⟨(tablesSound_iff t).mpr (soundTables_keeps.step (fun _ _ h => h) hstep hs), fun honTimes => ?_⟩
  exact (soundOnTimes_keeps.step (fun _ _ h => h) hstep ⟨hs, honTimes⟩).2

end Sys2Proof.Machine
end

section
/-! SUPPORT. What a RESTART can do, said once for every invariant, and what keeps the diagnostics unit sound (R150, R159,
R160, R163, R166 to R168, R172). -/

namespace Sys2Proof.Machine

open Sys2Proof Sys2Proof.Safety

/-! ### The execution of a RESTART -/

/-- The command RESTART finds no such parcel, or ends the parcel before its execution, or restarts every block and lets the
notices join, behind the reply when the parcel is addressed (R118, R121, R125 to R127). -/
theorem runRestart_inv {Inv : State → Prop} {s : State} (hs : Inv s)
    (take : ∀ p rest, s.parcels.buffer = p :: rest → p.executable = true → Inv (takeParcel rest s))
    (lose : ∀ x, Inv x → Inv (loseMessage x))
    (rep : ∀ (x : State) p code r b, Inv x → x.ret.queue.length < 8 → Inv (reply p code r b x))
    (silent : Inv (joinNotices (restartBlocks s)))
    (answers : ∀ p, Inv (joinNotices (reply p .done false [] (restartBlocks s)))) : Inv (runRestart s) := by
  unfold runRestart
  split
  · exact hs
  case h_2 p rest hb =>
    split
    case isFalse => exact hs
    case isTrue hx =>
      have ht := take p rest hb hx.1
      split
      · split
        · exact answers p
        case isFalse hlen =>
          unfold addressedSteps queueCapacity
          split
          · exact lose _ ht
          case isFalse hq =>
            rw [if_pos (by simpa using hlen)]
            exact rep _ _ _ _ _ ht (by omega)
      · split
        · exact silent
        · exact ht

/-- The restart of every block as the joining of notices leaves it, for what neither a reply nor a notice changes. -/
theorem runRestart_frame {Inv : State → Prop} {s : State} (hs : Inv s)
    (take : ∀ p rest, s.parcels.buffer = p :: rest → p.executable = true → Inv (takeParcel rest s))
    (lose : ∀ x, Inv x → Inv (loseMessage x)) (rep : ∀ (x : State) p code r b, Inv x → Inv (reply p code r b x))
    (join : ∀ x, Inv x → Inv (joinNotices x)) (blocks : Inv (restartBlocks s)) : Inv (runRestart s) :=
  runRestart_inv hs take lose (fun x p code r b hx _ => rep x p code r b hx) (join _ blocks)
    fun _ => join _ (rep _ _ _ _ _ blocks)

/-! ### The ends of a sweep -/

/-- A good sweep end has its effects, and then only messages join the local reply queue (R35, R114, R134, R137). -/
theorem goodSweepEnd_inv {Inv : State → Prop} {sw : Sweep} {s : State} (effects : Inv (goodEffects sw s))
    (reply : ∀ a x, Inv x → Inv (queueOverflowReply a x)) (count : ∀ (x : State) n, Inv x → Inv { x with freeUses := n })
    (join : ∀ x, Inv x → Inv (joinNotices x)) : Inv (goodSweepEnd sw s) := by
  unfold goodSweepEnd
  dsimp only
  split
  · split
    · split
      · exact join _ (reply _ _ (count _ _ effects))
      · exact reply _ _ (join _ (count _ _ effects))
    · exact join _ effects
  · exact reply _ _ effects

/-- END on DI is ignored, closes the outgoing sweep, ends the sweep bad, or ends it good (R25, R34, R37, R38, R40). -/
theorem endOnDi_inv {Inv : State → Prop} {s : State} (hs : Inv s)
    (skip : s.link.rx = .skip → Inv (onLink (Link.enter .waitStart) s))
    (early : ∀ got, s.link.rx = .header got → Inv (earlyClose s))
    (bad : ∀ sw, acceptedSweep s.link.rx = some sw → Inv (badSweepEnd sw (earlyClose s)))
    (good : ∀ sw, s.link.rx = .waitEnd sw true true → s.link.framingExact = true → s.link.voidMark = false →
      Inv (goodSweepEnd sw (onLink (fun l => (l.close cleanMark s.asked).enter .waitStart) s))) : Inv (endOnDi s) := by
  unfold endOnDi
  split
  case h_1 => exact hs
  case h_2 h => exact skip h
  case h_3 got h => exact early got h
  case h_4 sw k h => exact bad sw (by rw [h]; rfl)
  case h_5 sw left pos h => exact bad sw (by rw [h]; rfl)
  case h_6 sw c h => exact bad sw (by rw [h]; rfl)
  case h_7 sw c m h =>
    unfold closeSweep
    split
    case isTrue hgood =>
      simp only [goodVerdict, Bool.and_eq_true, Bool.not_eq_true'] at hgood
      obtain ⟨⟨⟨hexact, rfl⟩, rfl⟩, hvoid⟩ := hgood
      exact good sw h hexact hvoid
    case isFalse => exact bad sw (by rw [h]; rfl)

/-- START on DI begins a sweep, after the closing of an open one and the bad end of an accepted one (R25, R39, R40). -/
theorem startOnDi_inv {Inv : State → Prop} {s : State}
    (fresh : s.link.rx = .waitStart ∨ s.link.rx = .skip → Inv (onLink Link.begin s))
    (header : ∀ got, s.link.rx = .header got → Inv (onLink Link.begin (onLink (Link.close poisonMark s.asked) s)))
    (bad : ∀ sw, acceptedSweep s.link.rx = some sw →
      Inv (onLink Link.begin (badSweepEnd sw (onLink (Link.close poisonMark s.asked) s)))) : Inv (startOnDi s) := by
  unfold startOnDi
  dsimp only
  split
  case h_1 h => exact fresh (.inl h)
  case h_2 h => exact fresh (.inr h)
  case h_3 got h => exact header got h
  all_goals rename_i h; exact bad _ (by rw [h]; rfl)

/-! ### One record -/

/-- A record is sound: seen while it stands, its run within 0 to 15, and 0 in CLEAR and CONFIRMED (R150, R159, R163). -/
def SoundRecord (r : FaultRec) : Prop :=
  (r.state.standing = true → r.seen = true) ∧ r.run ≤ 15 ∧ (r.state = .clear ∨ r.state = .confirmed → r.run = 0)

theorem soundRecord_clear : SoundRecord { state := .clear, run := 0, seen := false } := by
  simp [SoundRecord, RecState.standing]

/-- A sample keeps a record sound when its confirmation sets the seen mark; a count that goes on stays below the count that
ends it (R158 to R160). -/
theorem SoundRecord.debounce {r : FaultRec} (h : SoundRecord r) {C K : Nat} (hC : C ≤ 15) (hK : K ≤ 15) (x : Sample) :
    SoundRecord { Machine.debounce C K r x with
      seen := r.seen || confirms r.state (Machine.debounce C K r x).state } := by
  obtain ⟨state, run, seen⟩ := r
  obtain ⟨hseen, hrun, hzero⟩ := h
  cases x with
  | noSample => exact ⟨fun hs => by rw [show seen = true from hseen hs]; rfl, hrun, hzero⟩
  | pass =>
    cases state with
    | clear => rw [debounce_clear_pass]; simp [SoundRecord, RecState.standing]
    | suspect => rw [debounce_suspect_pass]; simp [SoundRecord, RecState.standing]
    | confirmed =>
      have hs : seen = true := hseen rfl
      rw [debounce_confirmed_pass]
      split <;> simp [SoundRecord, hs]
    | recovering =>
      have hs : seen = true := hseen rfl
      rw [debounce_recovering_pass]
      split
      · simp [SoundRecord, hs]
      · simp [SoundRecord, hs]; omega
  | fail =>
    cases state with
    | clear =>
      rw [debounce_clear_fail]
      split <;> simp [SoundRecord, RecState.standing, confirms]
    | suspect =>
      rw [debounce_suspect_fail]
      split
      · simp [SoundRecord, confirms]
      · simp [SoundRecord, RecState.standing]; omega
    | confirmed =>
      have hs : seen = true := hseen rfl
      rw [debounce_confirmed_fail]; simp [SoundRecord, hs]
    | recovering =>
      have hs : seen = true := hseen rfl
      rw [debounce_recovering_fail]; simp [SoundRecord, hs]

theorem SoundRecord.restart {r : FaultRec} (h : SoundRecord r) : SoundRecord r.restart := by
  obtain ⟨state, run, seen⟩ := r
  have hseen := h.1
  cases state <;> simp_all [FaultRec.restart, SoundRecord, RecState.standing]

@[simp] theorem FaultRec.restart_seen (r : FaultRec) : r.restart.seen = r.seen := by
  unfold FaultRec.restart; split <;> rfl

/-! ### The diagnostics unit -/

/-- The records are sound and every latch names a record that is seen (R163). -/
def SoundDiag (s : State) : Prop :=
  (∀ i : Fin 63, SoundRecord s.diag.records[i]) ∧
    ∀ (c : Fin 16) (r : Fin 63), s.diag.latches[c] = some r → s.diag.records[r].seen = true

theorem soundDiag_iff (s : State) : LatchesSound s ∧ RunsSound s ↔ SoundDiag s := by
  constructor
  · rintro ⟨⟨hlatch, hstand⟩, hrun⟩
    exact ⟨fun i => ⟨hstand i, (hrun i).1, (hrun i).2⟩, hlatch⟩
  · rintro ⟨hrec, hlatch⟩
    exact ⟨⟨hlatch, fun r => (hrec r).1⟩, fun r => ⟨(hrec r).2.1, (hrec r).2.2⟩⟩

theorem SoundDiag.congr {s t : State} (h : SoundDiag s) (hr : t.diag.records = s.diag.records)
    (hl : t.diag.latches = s.diag.latches) : SoundDiag t := by
  unfold SoundDiag
  rw [hr, hl]
  exact h

theorem lowestRec_some {f : Fin 63 → Bool} {i : Fin 63} (h : lowestRec f = some i) : f i = true := List.find?_some h

theorem polConfirm_le (v : Vector Word 25) : polConfirm v ≤ 15 := by
  rw [polConfirm, bitsAt_eq]; omega

theorem polClear_le (v : Vector Word 25) : polClear v ≤ 15 := by
  rw [polClear, bitsAt_eq]; omega

theorem diagAfter_record (s : State) (obs : CycleObs) (i : Fin 63) : (s.diagAfter obs).records[i] =
    { s.sampled obs i with seen := s.diag.records[i].seen || s.confirmsAt obs i } := Vector.getElem_ofFn _

theorem diagAfter_latch (s : State) (obs : CycleObs) (c : Fin 16) : (s.diagAfter obs).latches[c] =
    match s.diag.latches[c] with
    | some r => some r
    | none => lowestRec fun i => s.confirmsAt obs i && affects (recPolicy s.tables.drive.active i) i c :=
  Vector.getElem_ofFn _

@[simp] theorem joinNotices_latches (s : State) : (joinNotices s).diag.latches = s.diag.latches :=
  (joinNotices_same s).latches

theorem completeCycle_latches (obs : CycleObs) (s : State) :
    (completeCycle obs s).diag.latches = (s.diagAfter obs).latches := by
  unfold completeCycle
  dsimp only
  split
  · rw [joinNotices_latches]
  · rfl

/-- A latch that a cycle completion takes names a record confirmed at it, and a latch that is held keeps its record seen
(R160, R163). -/
theorem SoundDiag.diagAfter {s : State} (h : SoundDiag s) (obs : CycleObs) :
    SoundDiag { s with diag := s.diagAfter obs } := by
  refine ⟨fun i => ?_, fun c r hr => ?_⟩
  · show SoundRecord (s.diagAfter obs).records[i]
    rw [diagAfter_record]
    exact (h.1 i).debounce (polConfirm_le _) (polClear_le _) _
  · replace hr : (s.diagAfter obs).latches[c] = some r := hr
    show (s.diagAfter obs).records[r].seen = true
    rw [diagAfter_record, Bool.or_eq_true]
    rw [diagAfter_latch] at hr
    cases hl : s.diag.latches[c] with
    | some x =>
      rw [hl] at hr
      cases hr
      exact .inl (h.2 c _ hl)
    | none =>
      rw [hl] at hr
      have hc := lowestRec_some hr
      rw [Bool.and_eq_true] at hc
      exact .inr hc.1

theorem clearSelected_record (chanMask kindMask : Word) (recs : Vector FaultRec 63) (i : Fin 63) :
    (clearSelected chanMask kindMask recs)[i] =
      if selected chanMask kindMask i then { state := .clear, run := 0, seen := false } else recs[i] :=
  Vector.getElem_ofFn _

theorem clearFaultsDiag_latch (drive : Vector Word 33) (chanMask kindMask : Word) (d : Diag) (c : Fin 16) :
    (clearFaultsDiag drive chanMask kindMask d).latches[c] =
      latchAfterClear drive chanMask kindMask (clearSelected chanMask kindMask d.records) c d.latches[c] :=
  Vector.getElem_ofFn _

/-- A latch that a CLEAR-FAULTS takes anew names a record that stands, and one that it keeps names a record that is not
selected (R167, R168). -/
theorem SoundDiag.clearFaults {s : State} (h : SoundDiag s) (drive : Vector Word 33) (chanMask kindMask : Word) :
    SoundDiag { s with diag := clearFaultsDiag drive chanMask kindMask s.diag } := by
  have hrec : ∀ i : Fin 63, SoundRecord (clearSelected chanMask kindMask s.diag.records)[i] := fun i => by
    rw [clearSelected_record]
    split
    · exact soundRecord_clear
    · exact h.1 i
  refine ⟨hrec, fun c r hr => ?_⟩
  replace hr : (clearFaultsDiag drive chanMask kindMask s.diag).latches[c] = some r := hr
  show (clearSelected chanMask kindMask s.diag.records)[r].seen = true
  rw [clearFaultsDiag_latch] at hr
  unfold latchAfterClear at hr
  split at hr
  · cases hr
  case h_2 x hl =>
    split at hr
    case isTrue =>
      have hs := lowestRec_some hr
      rw [Bool.and_eq_true] at hs
      exact (hrec r).1 hs.1
    case isFalse hsel =>
      cases hr
      rw [clearSelected_record, if_neg hsel]
      exact h.2 c _ hl

theorem restartBlocks_record (s : State) (i : Fin 63) :
    (restartBlocks s).diag.records[i] = s.diag.records[i].restart := by
  have : (restartBlocks s).diag.records = Vector.ofFn fun i : Fin 63 => (flushQueue s).diag.records[i].restart := by
    simp only [restartBlocks]
  rw [this, (flushQueue_same s).records]
  exact Vector.getElem_ofFn _

@[simp] theorem restartBlocks_latches (s : State) : (restartBlocks s).diag.latches = s.diag.latches := by
  simp only [restartBlocks, (flushQueue_same s).latches]

theorem SoundDiag.restart {s : State} (h : SoundDiag s) : SoundDiag (restartBlocks s) := by
  refine ⟨fun i => ?_, fun c r hr => ?_⟩
  · rw [restartBlocks_record]; exact (h.1 i).restart
  · rw [restartBlocks_latches] at hr
    rw [restartBlocks_record, FaultRec.restart_seen]
    exact h.2 c r hr

/-! ### Where the diagnostics unit is left alone -/

@[simp] theorem goodSweepEnd_records (sw : Sweep) (s : State) : (goodSweepEnd sw s).diag.records = s.diag.records :=
  goodSweepEnd_inv (Inv := fun x => x.diag.records = s.diag.records) (by simp) (fun _ _ h => by simpa using h)
    (fun _ _ h => h) fun _ h => by simpa using h

@[simp] theorem goodSweepEnd_latches (sw : Sweep) (s : State) : (goodSweepEnd sw s).diag.latches = s.diag.latches :=
  goodSweepEnd_inv (Inv := fun x => x.diag.latches = s.diag.latches) (by simp) (fun _ _ h => by simpa using h)
    (fun _ _ h => h) fun _ h => by simpa using h

theorem sampleTemperature_diag (m : Int) (n : Nat) (s : State) :
    (sampleTemperature m n s).diag.records = s.diag.records ∧
      (sampleTemperature m n s).diag.latches = s.diag.latches := by
  unfold sampleTemperature
  dsimp only
  split
  · exact ⟨rfl, rfl⟩
  · split <;> simp

theorem expireWatch_diag (s : State) :
    (expireWatch s).diag.records = s.diag.records ∧ (expireWatch s).diag.latches = s.diag.latches := by
  unfold expireWatch
  dsimp only
  split <;> simp

theorem startTransmission_diag (s : State) :
    (startTransmission s).diag.records = s.diag.records ∧ (startTransmission s).diag.latches = s.diag.latches := by
  unfold startTransmission
  split
  · exact ⟨rfl, rfl⟩
  · split <;> simp

/-- Records and latches stay sound at every operation (R150, R159, R163). -/
theorem soundDiag_keeps : Keeps SoundDiag where
  reset _ _ := by
    refine ⟨fun i => ?_, fun c r hr => ?_⟩
    · rw [show (beginReset _ _).diag.records[i] = _ from Vector.getElem_ofFn _]; exact soundRecord_clear
    · rw [show (beginReset _ _).diag.latches[c] = _ from Vector.getElem_ofFn _] at hr; cases hr
  pins _ _ h := h
  ended _ h := h.congr (by simp) (by simp)
  start _ h := h.congr (by simp) (by simp)
  word _ _ h := h.congr (by simp) (by simp)
  done s h := endOnDi_inv h (fun _ => h) (fun _ _ => h) (fun _ _ => h) fun _ _ _ _ => h.congr (by simp) (by simp)
  flow _ _ h := h
  again _ h := h.congr (by simp) (by simp)
  send _ h := h
  take _ _ _ h _ _ := h
  lose _ h := h
  rep _ _ _ _ _ h _ := h
  history _ _ _ _ h := h
  write _ _ _ h := h
  commit _ _ h := h
  discard _ _ h := h
  freeze _ _ h := h
  thaw _ _ _ h := h
  image _ _ h := h
  ack _ h := h
  clear _ _ h := h.clearFaults _ _ _
  restart s h := runRestart_frame h (fun _ _ _ _ => h) (fun _ hx => hx) (fun _ _ _ _ _ hx => hx)
    (fun _ hx => hx.congr (by simp) (by simp)) h.restart
  cycle _ h _ := h
  complete obs s h := (h.diagAfter obs).congr (completeCycle_records obs s) (completeCycle_latches obs s)
  sample m n s h := h.congr (sampleTemperature_diag m n s).1 (sampleTemperature_diag m n s).2
  watch s h _ := h.congr (expireWatch_diag s).1 (expireWatch_diag s).2
  hold s h _ := h.congr (joinNotices_records _) (joinNotices_latches _)
  transmit s h := h.congr (startTransmission_diag s).1 (startTransmission_diag s).2
  sent _ h := h
  riStart _ h := h.congr (by simp) (by simp)
  riEnd _ _ h := h.congr (by simp) (by simp)

/-- Settles O55: records and latches stay sound operation by operation; samples, CLEAR-FAULTS and RESTART are the three
that move them. -/
theorem diagnosticsStaySound : Obligations.DiagnosticsStaySound := by
  intro s t hstep hlatch hrun
  exact (soundDiag_iff t).mpr (soundDiag_keeps.step (fun _ _ h => h) hstep ((soundDiag_iff s).mp ⟨hlatch, hrun⟩))

end Sys2Proof.Machine
end

section
/-! SUPPORT. What the operations of the link do to its state, said once for every property of a link, and the bound and the
order of the DO queue (R23). -/

namespace Sys2Proof.Machine

open Sys2Proof Sys2Proof.Safety

/-! ### What a property of the link needs -/

/-- What a word on DI, a closing and a START can do to the link, each keeps `P` (R23, R24, R32). -/
structure LinkKeeps (P : Link → Prop) : Prop where
  feed : ∀ w l, P l → P (l.feedIn w)
  send : ∀ w l, P l → P (l.sendWord w)
  push : ∀ x l, P l → P (l.push x)
  enter : ∀ r l, P l → P (l.enter r)
  count : ∀ n (l : Link), P l → P { l with fwdCount := n }
  spoil : ∀ (l : Link), P l → P { l with framingExact := false }

theorem LinkKeeps.close {P : Link → Prop} (h : LinkKeeps P) (m : Word) (f : Flow) {l : Link} (hl : P l) :
    P (l.close m f) := h.push _ _ (h.push _ _ (h.push _ _ (h.push _ _ hl)))

theorem LinkKeeps.forward {P : Link → Prop} (h : LinkKeeps P) (a b : Word) (r : Rx) {l : Link} (hl : P l) :
    P (((l.feedIn a).sendWord b).enter r) := h.enter _ _ (h.send _ _ (h.feed _ _ hl))

theorem LinkKeeps.parcelWord {P : Link → Prop} (h : LinkKeeps P) (sw : Sweep) (left : Nat) (pos : ParcelPos) (w : Word)
    {s : State} (hs : P s.link) : P (parcelWord sw left pos w s).link := by
  cases pos with
  | addressWord => exact h.forward _ _ _ hs
  | kindLenWord target tag std => cases std <;> exact h.forward _ _ _ hs
  | bodyWord n storing => cases storing <;> exact h.forward _ _ _ hs

theorem LinkKeeps.payloadWord {P : Link → Prop} (h : LinkKeeps P) (sw : Sweep) (k : Nat) (w : Word) {s : State}
    (hs : P s.link) : P (payloadWord sw k w s).link := by
  unfold Machine.payloadWord
  split
  · unfold dataWord
    dsimp only
    split
    · exact h.forward _ _ _ hs
    · split
      · exact h.enter _ _ (h.feed _ _ hs)
      · exact h.forward _ _ _ hs
  all_goals exact h.forward _ _ _ hs

theorem LinkKeeps.headerWord {P : Link → Prop} (h : LinkKeeps P) (got : List Word) (w : Word) {s : State}
    (hs : P s.link) : P (headerWord got w s).link := by
  unfold Machine.headerWord
  split
  · exact h.forward _ _ _ hs
  · exact h.forward _ _ _ hs
  · split
    · exact h.count _ _ (h.forward _ _ _ hs)
    · exact h.enter _ _ (h.close _ _ (h.send _ _ (h.feed _ _ hs)))

theorem LinkKeeps.wordOnDi {P : Link → Prop} (h : LinkKeeps P) (w : Word) {s : State} (hs : P s.link) :
    P (wordOnDi w s).link := by
  unfold Machine.wordOnDi
  split
  · exact hs
  · exact hs
  · exact h.headerWord _ w hs
  · exact h.payloadWord _ _ w hs
  · exact h.parcelWord _ _ _ w hs
  · unfold trailerWord
    split <;> exact h.enter _ _ hs
  · exact h.spoil _ hs

theorem LinkKeeps.sendFlowChange {P : Link → Prop} (h : LinkKeeps P) (b : Flow) {s : State} (hs : P s.link) :
    P (sendFlowChange b s).link := by
  rcases sendFlowChange_cases b s with e | ⟨_, _, e⟩ <;> rw [e]
  · exact hs
  · exact h.push _ _ hs

theorem LinkKeeps.repeatFlow {P : Link → Prop} (h : LinkKeeps P) {s : State} (hs : P s.link) :
    P (repeatFlow s).link := by
  unfold Machine.repeatFlow
  split
  · exact hs
  · exact h.push _ _ hs

/-- A transmission start acts on the link by a change of the asked-for flow state alone (R143, R146). -/
theorem LinkKeeps.startTransmission {P : Link → Prop} (h : LinkKeeps P) {s : State} (hs : P s.link) :
    P (startTransmission s).link := by
  unfold Machine.startTransmission
  split
  · exact hs
  · split
    · exact hs
    · exact h.sendFlowChange _ hs
    · rw [joinNotices_link]; exact hs

theorem LinkKeeps.endOnRi {P : Link → Prop} (h : LinkKeeps P) (ws : List Word) {s : State} (hs : P s.link) :
    P (endOnRi ws s).link := by
  unfold Machine.endOnRi
  split
  · exact hs
  · exact hs
  · split
    · exact h.sendFlowChange _ hs
    · exact hs

/-! ### The address and the last good sweep number -/

theorem linkKeeps_station (l : Link) :
    LinkKeeps fun x => x.address = l.address ∧ x.lastGood = l.lastGood where
  feed _ _ h := h
  send _ _ h := by simpa using h
  push _ _ h := by simpa using h
  enter _ _ h := h
  count _ _ h := h
  spoil _ h := h

/-! ### The DO queue grows at its tail (R23) -/

/-- Symbols joined the tail of a DO queue as far as 16 places allow, and into a full one none joined and none entered the
outbound check (R23). -/
structure Link.Grows (a b : Link) : Prop where
  queue : ∃ xs, b.doQueue = a.doQueue ++ xs
  bound : b.doQueue.length ≤ max 16 a.doQueue.length
  check : 16 ≤ a.doQueue.length → b.outCrc = a.outCrc

theorem Link.Grows.refl (l : Link) : l.Grows l := ⟨⟨[], by simp⟩, le_max_right _ _, fun _ => rfl⟩

theorem Link.Grows.trans {a b c : Link} (h : a.Grows b) (k : b.Grows c) : a.Grows c := by
  obtain ⟨⟨xs, hxs⟩, hbound, hcheck⟩ := h
  obtain ⟨⟨ys, hys⟩, kbound, kcheck⟩ := k
  have hlen : a.doQueue.length ≤ b.doQueue.length := by rw [hxs, List.length_append]; omega
  exact ⟨⟨xs ++ ys, by rw [hys, hxs, List.append_assoc]⟩, by omega, fun hfull =>
    (kcheck (by omega)).trans (hcheck hfull)⟩

theorem push_grows (x : Symbol) (l : Link) : l.Grows (l.push x) := by
  rcases push_cases x l with ⟨hlt, e⟩ | ⟨_, e⟩ <;> rw [e]
  · exact ⟨⟨[x], rfl⟩, by simp; omega, fun _ => rfl⟩
  · exact ⟨⟨[], by simp⟩, le_max_right _ _, fun _ => rfl⟩

theorem sendWord_grows (w : Word) (l : Link) : l.Grows (l.sendWord w) := by
  rcases sendWord_cases w l with ⟨hlt, e⟩ | ⟨_, e⟩ <;> rw [e]
  · exact ⟨⟨[.word w], rfl⟩, by simp; omega, fun hfull => by omega⟩
  · exact ⟨⟨[], by simp⟩, le_max_right _ _, fun _ => rfl⟩

theorem linkKeeps_grows (l : Link) : LinkKeeps l.Grows where
  feed _ m h := h.trans ⟨⟨[], by simp⟩, le_max_right _ _, fun _ => rfl⟩
  send w m h := h.trans (sendWord_grows w m)
  push x m h := h.trans (push_grows x m)
  enter _ m h := h.trans ⟨⟨[], by simp⟩, le_max_right _ _, fun _ => rfl⟩
  count _ m h := h.trans ⟨⟨[], by simp⟩, le_max_right _ _, fun _ => rfl⟩
  spoil m h := h.trans ⟨⟨[], by simp⟩, le_max_right _ _, fun _ => rfl⟩

theorem close_grows (m : Word) (f : Flow) (l : Link) : l.Grows (l.close m f) := (linkKeeps_grows l).close m f (.refl l)

/-- START sets the outbound check anew; its symbol joins as any other (R25). -/
theorem begin_grows (l : Link) : l.Grows { l.begin with outCrc := l.outCrc } := by
  obtain ⟨⟨xs, hxs⟩, hbound, _⟩ := push_grows .startSym { l with
    inCrc := crcInit, outCrc := crcInit, voidMark := false, framingExact := true, rx := .header [] }
  exact ⟨⟨xs, hxs⟩, hbound, fun _ => rfl⟩

theorem startOnDi_grows (s : State) : s.link.Grows { (startOnDi s).link with outCrc := s.link.outCrc } := by
  have hclose : ∀ l : Link, l = s.link.close poisonMark s.asked →
      s.link.Grows { l.begin with outCrc := s.link.outCrc } := by
    rintro l rfl
    obtain ⟨hqueue, hbound, _⟩ := (close_grows poisonMark s.asked s.link).trans (begin_grows _)
    exact ⟨hqueue, hbound, fun _ => rfl⟩
  refine startOnDi_inv (Inv := fun x => s.link.Grows { x.link with outCrc := s.link.outCrc }) (fun _ => begin_grows _)
    (fun _ _ => hclose _ rfl) (fun _ _ => hclose _ rfl)

theorem takeAddress_grows (sw : Sweep) (l : Link) (n : Word) : l.Grows { takeAddress sw l with lastGood := n } := by
  unfold takeAddress
  split <;> exact ⟨⟨[], by simp⟩, le_max_right _ _, fun _ => rfl⟩

theorem goodEffects_link (sw : Sweep) (s : State) :
    (goodEffects sw s).link = { takeAddress sw s.link with lastGood := sw.num } := by
  unfold goodEffects
  dsimp only
  split
  · rw [refreshLink_link]
  · rfl

theorem goodSweepEnd_link (sw : Sweep) (s : State) :
    (goodSweepEnd sw s).link = { takeAddress sw s.link with lastGood := sw.num } :=
  goodSweepEnd_inv (Inv := fun x => x.link = { takeAddress sw s.link with lastGood := sw.num })
    (goodEffects_link sw s) (fun _ _ h => by simpa using h) (fun _ _ h => h) fun _ h => by simpa using h

theorem endOnDi_grows (s : State) : s.link.Grows (endOnDi s).link := by
  have hclose : ∀ m, s.link.Grows ((s.link.close m s.asked).enter .waitStart) := fun m =>
    (linkKeeps_grows s.link).enter _ _ (close_grows m s.asked s.link)
  refine endOnDi_inv (Inv := fun x => s.link.Grows x.link) (.refl _) (fun _ => ?_) (fun _ _ => hclose _)
    (fun _ _ => hclose _) (fun sw _ _ _ => ?_)
  · exact (linkKeeps_grows s.link).enter _ _ (.refl _)
  · rw [goodSweepEnd_link]
    exact (hclose _).trans (takeAddress_grows sw _ _)

end Sys2Proof.Machine
end

section
/-! SUPPORT. The bounds of the local reply queue, the pass buffer and the DO queue (R23, R132, R133, R141, R142, R145), and
that no notice waits outside the local reply queue (R137). -/

namespace Sys2Proof.Machine

open Sys2Proof Sys2Proof.Safety

/-! ### What the joining of notices leaves of the return lane -/

@[simp] theorem joinNotices_pass (s : State) : (joinNotices s).ret.pass = s.ret.pass := (joinNotices_same s).pass

@[simp] theorem joinNotices_ri (s : State) : (joinNotices s).ret.ri = s.ret.ri := (joinNotices_same s).ri

@[simp] theorem joinNotices_ro (s : State) : (joinNotices s).ret.ro = s.ret.ro := (joinNotices_same s).ro

@[simp] theorem joinNotices_passCount (s : State) : (joinNotices s).ret.passCount = s.ret.passCount :=
  (joinNotices_same s).passCount

@[simp] theorem joinNotices_prevLink (s : State) : (joinNotices s).ret.prevLink = s.ret.prevLink :=
  (joinNotices_same s).prevLink

/-- A good sweep end refreshes the link, which may set the LINK flag; the rest of the lane is as before (R35, R189). -/
theorem goodEffects_ret (sw : Sweep) (s : State) : (goodEffects sw s).ret =
    if sw.kind.refreshes = true ∧ s.watch.state.returns = true
    then { s.ret with linkFlag := true, prevLink := s.watch.state } else s.ret := by
  cases hr : sw.kind.refreshes <;> cases hw : s.watch.state.returns <;> simp [goodEffects, refreshLink, hr, hw]

theorem goodEffects_queue (sw : Sweep) (s : State) : (goodEffects sw s).ret.queue = s.ret.queue := by
  rw [goodEffects_ret]; split <;> rfl

/-! ### The stores of the return lane -/

/-- The arbiter sends the head of the pass buffer or the head of the local reply queue (R145). -/
theorem arbiter_pass {r : Ret} {ws : List Word} {rest : List (List Word)} (h : arbiterChoice r = .passHead ws rest) :
    r.pass = ws :: rest := by
  unfold arbiterChoice at h
  split at h <;> simp_all
  split at h <;> simp_all

theorem arbiter_local {r : Ret} {m : Msg} {rest : List Msg} (h : arbiterChoice r = .localHead m rest) :
    r.queue = m :: rest := by
  unfold arbiterChoice at h
  split at h <;> simp_all
  split at h <;> simp_all

/-- START on RI gives the new message a place, or marks it as overrun; the LOST mark follows (R141, R142). -/
theorem startOnRi_ret (s : State) : (startOnRi s).ret = { s.ret with
    ri := if s.ret.pass.length < 3 then .arriving else .overrun
    lost := s.ret.lost || decide (s.ret.ri = .arriving) || decide (3 ≤ s.ret.pass.length) } := by
  unfold startOnRi passCapacity
  by_cases hri : s.ret.ri = .arriving <;> by_cases hlen : s.ret.pass.length < 3
  · simp [hri, hlen]
  · simp [hri, hlen, not_lt.mp hlen]
  · have : ¬ 3 ≤ s.ret.pass.length := by omega
    simp [hri, hlen, this]
  · simp [hri, hlen, not_lt.mp hlen]

theorem startOnRi_queue (s : State) : (startOnRi s).ret.queue = s.ret.queue := by rw [startOnRi_ret]

theorem endOnRi_queue (ws : List Word) (s : State) : (endOnRi ws s).ret.queue = s.ret.queue := by
  unfold endOnRi
  repeat' split
  all_goals simp

/-! ### The local reply queue -/

/-- A queue of messages within the bounds of R132 and R133. -/
def SoundQueue (q : List Msg) : Prop :=
  q.length ≤ 8 ∧ (allNotices q).length ≤ 6 ∧ (∀ k, (noticesOf k q).length ≤ 1) ∧
    ∀ m ∈ q, m.noticeKind.isSome = true → m.source ≠ 255

theorem soundQueue_nil : SoundQueue [] := by simp [SoundQueue, allNotices, noticesOf]

/-- A reply joins while fewer than 8 messages are queued (R133). -/
theorem SoundQueue.reply {q : List Msg} (h : SoundQueue q) (hlen : q.length < 8) {m : Msg} (hm : m.noticeKind = none) :
    SoundQueue (q ++ [m]) := by
  obtain ⟨_, hall, hof, hsource⟩ := h
  refine ⟨by simp; omega, by simpa [allNotices, hm] using hall, fun k => by simpa [noticesOf, hm] using hof k, ?_⟩
  intro x hx hk
  rcases List.mem_append.mp hx with hx | hx
  · exact hsource x hx hk
  · rw [List.mem_singleton.mp hx, hm] at hk; cases hk

/-- A notice joins an addressed node's queue of fewer than 6 messages, none of its kind (R133, R137). -/
theorem SoundQueue.notice {q : List Msg} (h : SoundQueue q) (hlen : q.length < 6) {m : Msg} {k : NoticeKind}
    (hm : m.noticeKind = some k) (hnone : ∀ x ∈ q, x.noticeKind ≠ some k) (hsrc : m.source ≠ 255) :
    SoundQueue (q ++ [m]) := by
  obtain ⟨_, _, hof, hsource⟩ := h
  refine ⟨by simp; omega, ?_, fun j => ?_, ?_⟩
  · have : (allNotices (q ++ [m])).length ≤ (q ++ [m]).length := List.length_filter_le _ _
    rw [List.length_append, List.length_singleton] at this
    omega
  · by_cases hj : j = k
    · subst hj
      have hnil : noticesOf j q = [] := by
        rw [noticesOf, List.filter_eq_nil_iff]
        intro x hx hc
        exact hnone x hx (by simpa using hc)
      simp only [noticesOf] at hnil ⊢
      simp [List.filter_append, hnil, hm]
    · have : (some k == some j) = false := by simpa using fun e => hj e.symm
      simpa [noticesOf, hm, this] using hof j
  · intro x hx hk
    rcases List.mem_append.mp hx with hx | hx
    · exact hsource x hx hk
    · rw [List.mem_singleton.mp hx]; exact hsrc

/-- The head of the queue leaves it (R146). -/
theorem SoundQueue.tail {m : Msg} {q : List Msg} (h : SoundQueue (m :: q)) : SoundQueue q := by
  obtain ⟨hlen, hall, hof, hsource⟩ := h
  have hsub : q.Sublist (m :: q) := List.sublist_cons_self m q
  exact ⟨by simp at hlen; omega, (hsub.filter _).length_le.trans hall, fun k => (hsub.filter _).length_le.trans (hof k),
    fun x hx => hsource x (List.mem_cons_of_mem _ hx)⟩

/-- What lets a notice join (R137). -/
theorem noticeEligible_iff (s : State) (k : NoticeKind) : noticeEligible s k = true ↔
    noticePending s k = true ∧ RoomForNotice s k := by
  rw [eligible_iff]
  simp only [RoomForNotice, Bool.and_eq_true, decide_eq_true_eq, List.all_eq_true, bne_iff_ne]
  tauto

theorem soundQueue_joinNotice {s : State} (h : SoundQueue s.ret.queue) (k : NoticeKind) :
    SoundQueue (joinNotice k s).ret.queue := by
  rcases joinNotice_cases k s with ⟨_, e⟩ | ⟨he, e⟩ <;> rw [e]
  · exact h
  · obtain ⟨_, haddr, hlen, hnone⟩ := (noticeEligible_iff s k).mp he
    simp only [joinMsg_ret, consumePending_queue, consumePending_link]
    exact h.notice hlen rfl hnone haddr

theorem soundQueue_joinNotices {s : State} (h : SoundQueue s.ret.queue) : SoundQueue (joinNotices s).ret.queue :=
  soundQueue_joinNotice (soundQueue_joinNotice (soundQueue_joinNotice (soundQueue_joinNotice h _) _) _) _

theorem soundQueue_overflowReply {s : State} (h : SoundQueue s.ret.queue) (a : Option Account) :
    SoundQueue (queueOverflowReply a s).ret.queue := by
  unfold queueOverflowReply
  split
  · exact h
  · split
    · exact h
    · split
      case isTrue hlen => exact h.reply hlen rfl
      case isFalse => exact h

/-! ### The states at which notices look for room -/

/-- A cycle completion before its notices join: samples, supply evaluation and the SUPPLY flag (R151, R182, R183). -/
def cycleEvaluated (obs : CycleObs) (s : State) : State :=
  let supply := evaluateSupply (supplyPoints s.tables.policy.active obs.vlsEnd) s.supply
  { s with
    diag := s.diagAfter obs
    supply := supply
    drive := { s.drive with running := false }
    ret := { s.ret with supplyFlag := s.ret.supplyFlag || supply.state != s.supply.state } }

theorem completeCycle_eq (obs : CycleObs) (s : State) : completeCycle obs s =
    if ((cycleEvaluated obs s).supply.state != s.supply.state || (List.finRange 63).any fun i => s.joinsAt obs i) = true
    then joinNotices (cycleEvaluated obs s) else cycleEvaluated obs s := rfl

/-- The thermal monitor after a sample (R174, R175, R177). -/
def thermalAfter (milliC : Int) (s : State) : Thermal :=
  let b := newBand s.tables.policy.active (readingOf milliC) s.thermal.band
  { reading := some (readingOf milliC), band := b, highest := s.thermal.highest.max b }

/-- A thermal sample that changes the band, before its notice joins (R178, R80). -/
def bandChanged (milliC : Int) (count : Nat) (s : State) : State :=
  { s with
    thermal := thermalAfter milliC s
    drive := if (thermalAfter milliC s).band = .critical then cutOutputs count s.drive else s.drive
    ret := { s.ret with thermalFlag := true } }

theorem sampleTemperature_eq (milliC : Int) (count : Nat) (s : State) : sampleTemperature milliC count s =
    if (thermalAfter milliC s).band = s.thermal.band then { s with thermal := thermalAfter milliC s }
    else joinNotices (bandChanged milliC count s) := by
  by_cases h : (thermalAfter milliC s).band = s.thermal.band
  · rw [if_pos h]
    exact if_pos h
  · rw [if_neg h]
    refine (if_neg h).trans (congrArg joinNotices ?_)
    by_cases hc : newBand s.tables.policy.active (readingOf milliC) s.thermal.band = .critical <;>
      simp [bandChanged, thermalAfter, hc]

/-! ### The queue at every operation -/

theorem soundQueue_runRestart {s : State} (h : SoundQueue s.ret.queue) : SoundQueue (runRestart s).ret.queue := by
  refine runRestart_inv (Inv := fun x => SoundQueue x.ret.queue) h (fun _ _ _ _ => h) (fun _ hx => hx)
    (fun x p code r b hx hlen => hx.reply hlen rfl) (soundQueue_joinNotices ?_) fun p => soundQueue_joinNotices ?_
  · rw [restartBlocks_ret, flushQueue_queue]; exact soundQueue_nil
  · simp only [reply, joinMsg_ret, restartBlocks_ret, flushQueue_queue]
    exact soundQueue_nil.reply (by simp) rfl

/-- The local reply queue stays within its bounds at every operation (R132, R133). -/
theorem replyQueue_keeps : Keeps ReplyQueueSound where
  reset _ _ := soundQueue_nil
  pins _ _ h := h
  ended _ h := h
  start s h := by unfold ReplyQueueSound; rw [startOnDi_ret]; exact h
  word w s h := by unfold ReplyQueueSound; rw [wordOnDi_ret]; exact h
  done s h := endOnDi_inv h (fun _ => h) (fun _ _ => h) (fun _ _ => h) fun sw _ _ _ =>
    goodSweepEnd_inv (Inv := fun x => SoundQueue x.ret.queue) (by rw [goodEffects_queue]; exact h)
      (fun a _ hx => soundQueue_overflowReply hx a) (fun _ _ hx => hx) fun _ hx => soundQueue_joinNotices hx
  flow _ _ h := h
  again s h := by unfold ReplyQueueSound; rw [repeatFlow_ret]; exact h
  send _ h := h
  take _ _ _ h _ _ := h
  lose _ h := h
  rep _ _ _ _ _ h hlen := SoundQueue.reply h hlen rfl
  history _ _ _ _ h := h
  write _ _ _ h := h
  commit _ _ h := h
  discard _ _ h := h
  freeze _ _ h := h
  thaw _ _ _ h := h
  image _ _ h := h
  ack _ h := h
  clear p s h := by unfold ReplyQueueSound; rw [clearFaultsRule_ret]; exact h
  restart _ h := soundQueue_runRestart h
  cycle _ h _ := h
  complete obs s h := by
    rw [completeCycle_eq]
    split
    · exact soundQueue_joinNotices h
    · exact h
  sample m n s h := by
    rw [sampleTemperature_eq]
    split
    · exact h
    · exact soundQueue_joinNotices h
  watch s h _ := by
    unfold expireWatch
    dsimp only
    split
    · exact soundQueue_joinNotices h
    · exact h
  hold s h _ := soundQueue_joinNotices h
  transmit s h := by
    unfold startTransmission
    split
    · exact h
    · split
      · exact h
      · unfold ReplyQueueSound; rw [sendFlowChange_ret]; exact h
      case h_3 m rest hchoice =>
        have hq : SoundQueue s.ret.queue := h
        rw [arbiter_local hchoice] at hq
        exact soundQueue_joinNotices hq.tail
  sent _ h := h
  riStart s h := by unfold ReplyQueueSound; rw [startOnRi_queue]; exact h
  riEnd ws s h := by unfold ReplyQueueSound; rw [endOnRi_queue]; exact h

/-! ### The pass buffer at every operation -/

theorem passBuffer_congr {s t : State} (h : PassBufferSound s) (hpass : t.ret.pass = s.ret.pass)
    (hri : t.ret.ri = s.ret.ri) (hcount : t.ret.passCount = s.ret.passCount) : PassBufferSound t := by
  unfold PassBufferSound
  rw [hpass, hri, hcount]
  exact h

theorem passBuffer_joinNotices {s : State} (h : PassBufferSound s) : PassBufferSound (joinNotices s) :=
  passBuffer_congr h (by simp) (by simp) (by simp)

theorem passBuffer_overflowReply {s : State} (h : PassBufferSound s) (a : Option Account) :
    PassBufferSound (queueOverflowReply a s) :=
  have e := queueOverflowReply_same a s
  passBuffer_congr h e.pass e.ri e.passCount

theorem passBuffer_goodEffects {s : State} (h : PassBufferSound s) (sw : Sweep) : PassBufferSound (goodEffects sw s) := by
  unfold PassBufferSound
  rw [goodEffects_ret]
  split <;> exact h

/-- Pass buffer, RI and counter agree at every operation (R141, R142, R145). -/
theorem passBuffer_keeps : Keeps PassBufferSound where
  reset _ _ := ⟨by simp [beginReset, powerOnValues], by simp [beginReset, powerOnValues],
    by simp [beginReset, powerOnValues]⟩
  pins _ _ h := h
  ended _ h := h
  start s h := by unfold PassBufferSound; rw [startOnDi_ret]; exact h
  word w s h := by unfold PassBufferSound; rw [wordOnDi_ret]; exact h
  done s h := endOnDi_inv h (fun _ => h) (fun _ _ => h) (fun _ _ => h) fun sw _ _ _ =>
    goodSweepEnd_inv (passBuffer_goodEffects (s := onLink _ s) h sw) (fun a _ hx => passBuffer_overflowReply hx a) (fun _ _ hx => hx)
      fun _ hx => passBuffer_joinNotices hx
  flow _ _ h := h
  again s h := by unfold PassBufferSound; rw [repeatFlow_ret]; exact h
  send _ h := h
  take _ _ _ h _ _ := h
  lose _ h := h
  rep _ _ _ _ _ h _ := h
  history _ _ _ _ h := h
  write _ _ _ h := h
  commit _ _ h := h
  discard _ _ h := h
  freeze _ _ h := h
  thaw _ _ _ h := h
  image _ _ h := h
  ack _ h := h
  clear p s h := by unfold PassBufferSound; rw [clearFaultsRule_ret]; exact h
  restart s h := runRestart_frame h (fun _ _ _ _ => h) (fun _ hx => hx) (fun _ _ _ _ _ hx => hx)
    (fun _ hx => passBuffer_joinNotices hx) (by
      have e := flushQueue_same s
      exact passBuffer_congr h (by rw [restartBlocks_ret, e.pass]) (by rw [restartBlocks_ret, e.ri])
        (by rw [restartBlocks_ret, e.passCount]))
  cycle _ h _ := h
  complete obs s h := by
    rw [completeCycle_eq]
    split
    · exact passBuffer_joinNotices h
    · exact h
  sample m n s h := by
    rw [sampleTemperature_eq]
    split
    · exact h
    · exact passBuffer_joinNotices h
  watch s h _ := by
    unfold expireWatch
    dsimp only
    split
    · exact passBuffer_joinNotices h
    · exact h
  hold s h _ := passBuffer_joinNotices h
  transmit s h := by
    obtain ⟨hpass, hri, hcount⟩ := h
    unfold startTransmission
    split
    · exact ⟨hpass, hri, hcount⟩
    · split
      · exact ⟨hpass, hri, hcount⟩
      case h_2 ws rest hchoice =>
        rw [arbiter_pass hchoice, List.length_cons] at hpass hri
        unfold PassBufferSound
        rw [sendFlowChange_ret]
        exact ⟨by dsimp only; omega, fun h => by have := hri h; dsimp only; omega, by dsimp only; split <;> omega⟩
      case h_3 => exact passBuffer_joinNotices ⟨hpass, hri, Nat.zero_le _⟩
  sent _ h := h
  riStart s h := by
    obtain ⟨hpass, _, hcount⟩ := h
    unfold PassBufferSound
    rw [startOnRi_ret]
    refine ⟨hpass, fun h => ?_, hcount⟩
    by_contra hfull
    rw [if_neg hfull] at h
    cases h
  riEnd ws s h := by
    obtain ⟨hpass, hri, hcount⟩ := h
    unfold endOnRi
    split
    · exact ⟨hpass, hri, hcount⟩
    · exact ⟨hpass, fun h => (by cases h), hcount⟩
    case h_3 harr =>
      split
      · unfold PassBufferSound
        rw [sendFlowChange_ret]
        exact ⟨by simp; exact hri harr, fun h => (by cases h), hcount⟩
      · exact ⟨hpass, fun h => (by cases h), hcount⟩

/-! ### The DO queue at every operation -/

theorem doQueue_of_grows {s t : State} (h : DoQueueSound s) {l : Link} (hg : s.link.Grows l)
    (hl : l.doQueue = t.link.doQueue) : DoQueueSound t := by
  have hbound := hg.bound
  unfold DoQueueSound at h ⊢
  rw [← hl]
  omega

theorem doQueue_congr {s t : State} (h : DoQueueSound s) (hl : t.link = s.link) : DoQueueSound t := by
  unfold DoQueueSound
  rw [hl]
  exact h

/-- The DO queue holds at most 16 symbols after every operation (R23). -/
theorem doQueue_keeps : Keeps DoQueueSound where
  reset _ _ := Nat.zero_le _
  pins _ _ h := h
  ended s h := doQueue_of_grows h (push_grows _ s.link) rfl
  start s h := doQueue_of_grows h (startOnDi_grows s) rfl
  word w s h := doQueue_of_grows h ((linkKeeps_grows s.link).wordOnDi w (.refl _)) rfl
  done s h := doQueue_of_grows h (endOnDi_grows s) rfl
  flow _ _ h := h
  again s h := doQueue_of_grows h ((linkKeeps_grows s.link).repeatFlow (.refl _)) rfl
  send s h := by
    unfold DoQueueSound at h ⊢
    simp only [onLink_link]
    unfold Link.sendOne
    split
    · exact h
    case h_2 hq => rw [hq] at h; exact (Nat.le_succ _).trans h
  take _ _ _ h _ _ := h
  lose _ h := h
  rep _ _ _ _ _ h _ := h
  history _ _ _ _ h := h
  write _ _ _ h := h
  commit _ _ h := h
  discard _ _ h := h
  freeze _ _ h := h
  thaw _ _ _ h := h
  image _ _ h := h
  ack _ h := h
  clear p s h := doQueue_congr h (clearFaultsRule_link p s)
  restart s h := runRestart_frame h (fun _ _ _ _ => h) (fun _ hx => hx) (fun _ _ _ _ _ hx => hx)
    (fun x hx => doQueue_congr hx (joinNotices_link x)) (by
      unfold DoQueueSound at h ⊢
      simpa [restartBlocks] using h)
  cycle _ h _ := h
  complete obs s h := doQueue_congr h (completeCycle_link obs s)
  sample m n s h := doQueue_congr h (sampleTemperature_link m n s)
  watch s h _ := doQueue_congr h (expireWatch_link s)
  hold s h _ := doQueue_congr h (expireHoldover_link s)
  transmit s h := doQueue_of_grows h ((linkKeeps_grows s.link).startTransmission (.refl _)) rfl
  sent _ h := h
  riStart s h := doQueue_congr h (startOnRi_link s)
  riEnd ws s h := doQueue_of_grows h ((linkKeeps_grows s.link).endOnRi ws (.refl _)) rfl

/-- Settles O52: each of the three stores stays within its bounds, operation by operation. -/
theorem queuesStayInBounds : Obligations.QueuesStayInBounds := fun _ _ hstep hqueue hpass hdo =>
  ⟨replyQueue_keeps.step (fun _ _ h => h) hstep hqueue, passBuffer_keeps.step (fun _ _ h => h) hstep hpass,
    doQueue_keeps.step (fun _ _ h => h) hstep hdo⟩

/-! ### No notice waits (R137) -/

/-- No notice can join where no more is pending, the queue is as long or longer, and the node is no newly addressed one. -/
theorem noNoticeWaits_mono {s t : State} (h : NoNoticeWaits s)
    (hpend : ∀ k, noticePending t k = true → noticePending s k = true) (hqueue : ∃ xs, t.ret.queue = s.ret.queue ++ xs)
    (haddr : t.link.address ≠ 255 → s.link.address ≠ 255) : NoNoticeWaits t := by
  intro k
  obtain ⟨xs, hxs⟩ := hqueue
  by_contra hc
  obtain ⟨hp, ha, hlen, hnone⟩ := (noticeEligible_iff t k).mp (by simpa using hc)
  rw [hxs] at hlen hnone
  have : noticeEligible s k = true := (noticeEligible_iff s k).mpr ⟨hpend k hp, haddr ha,
    by rw [List.length_append] at hlen; omega, fun m hm => hnone m (List.mem_append_left _ hm)⟩
  rw [h k] at this
  cases this

theorem noticePending_fault_iff (s : State) :
    noticePending s .fault = true ↔ ∃ i : Fin 63, s.diag.changed[i] = true := by
  simp only [noticePending, List.any_eq_true, id, Vector.mem_toList_iff]
  constructor
  · rintro ⟨x, hx, rfl⟩
    obtain ⟨i, hi, e⟩ := Vector.mem_iff_getElem.mp hx
    exact ⟨⟨i, hi⟩, e⟩
  · rintro ⟨i, hi⟩
    exact ⟨_, Vector.getElem_mem i.isLt, hi⟩

/-- The pending conditions are the changed set and the three flags (R136). -/
theorem noticePending_congr {s t : State} (hc : t.diag.changed = s.diag.changed)
    (h1 : t.ret.thermalFlag = s.ret.thermalFlag) (h2 : t.ret.supplyFlag = s.ret.supplyFlag)
    (h3 : t.ret.linkFlag = s.ret.linkFlag) (k : NoticeKind) : noticePending t k = noticePending s k := by
  cases k <;> simp only [noticePending, hc, h1, h2, h3]

@[simp] theorem joinMsg_noticePending (x : Content) (s : State) (k : NoticeKind) :
    noticePending (joinMsg x s) k = noticePending s k := by
  cases k <;> simp only [noticePending, joinMsg_diag, joinMsg_ret]

@[simp] theorem loseMessage_noticePending (s : State) (k : NoticeKind) :
    noticePending (loseMessage s) k = noticePending s k := by
  cases k <;> simp only [noticePending, loseMessage_diag, loseMessage_ret]

theorem consumePending_changed (s : State) (i : Fin 63) : (consumePending s .fault).diag.changed[i] =
    (s.diag.changed[i] && !s.diag.listed.contains i) := Vector.getElem_ofFn _

/-- The consumption of one kind makes no kind pending (R137, R139). -/
theorem consumePending_noticePending {k j : NoticeKind} {s : State} (h : noticePending (consumePending s k) j = true) :
    noticePending s j = true := by
  cases j with
  | fault =>
    cases k with
    | fault =>
      rw [noticePending_fault_iff] at h ⊢
      obtain ⟨i, hi⟩ := h
      rw [consumePending_changed, Bool.and_eq_true] at hi
      exact ⟨i, hi.1⟩
    | _ => exact h
  | _ => cases k <;> simp_all [noticePending, consumePending]

/-- A notice that joins leaves no more pending than before. -/
theorem joinNotice_noticePending (k j : NoticeKind) (s : State) (h : noticePending (joinNotice k s) j = true) :
    noticePending s j = true := by
  rcases joinNotice_cases k s with ⟨_, e⟩ | ⟨_, e⟩ <;> rw [e] at h
  · exact h
  · rw [joinMsg_noticePending] at h
    exact consumePending_noticePending h

theorem joinNotice_queue (k : NoticeKind) (s : State) : ∃ xs, (joinNotice k s).ret.queue = s.ret.queue ++ xs := by
  rcases joinNotice_cases k s with ⟨_, e⟩ | ⟨_, e⟩ <;> rw [e]
  · exact ⟨[], by simp⟩
  · exact ⟨_, by rw [joinMsg_ret, consumePending_queue]⟩

/-- A kind that has had its turn cannot join, and a kind that could not join before cannot either. -/
theorem joinNotice_ineligible (k j : NoticeKind) (s : State) (h : j = k ∨ noticeEligible s j = false) :
    noticeEligible (joinNotice k s) j = false := by
  by_contra hc
  obtain ⟨hp, ha, hlen, hnone⟩ := (noticeEligible_iff _ j).mp (by simpa using hc)
  obtain ⟨xs, hxs⟩ := joinNotice_queue k s
  have hs : noticeEligible s j = true := (noticeEligible_iff s j).mpr ⟨joinNotice_noticePending k j s hp,
    by rwa [joinNotice_link] at ha, by rw [hxs, List.length_append] at hlen; omega,
    fun m hm => hnone m (by rw [hxs]; exact List.mem_append_left _ hm)⟩
  rcases h with rfl | h
  · rcases joinNotice_cases j s with ⟨he, _⟩ | ⟨_, e⟩
    · rw [hs] at he; cases he
    · rw [e] at hnone
      exact hnone _ (by rw [joinMsg_ret]; exact List.mem_append_right _ (List.mem_singleton_self _)) rfl
  · rw [hs] at h; cases h

/-- After the notices have had their turns none waits (R137, R138). -/
theorem joinNotices_noneWaits (s : State) : NoNoticeWaits (joinNotices s) := by
  intro k
  unfold joinNotices
  cases k
  · exact joinNotice_ineligible _ _ _ (.inr (joinNotice_ineligible _ _ _ (.inr (joinNotice_ineligible _ _ _ (.inr
      (joinNotice_ineligible _ _ _ (.inl rfl)))))))
  · exact joinNotice_ineligible _ _ _ (.inr (joinNotice_ineligible _ _ _ (.inr (joinNotice_ineligible _ _ _ (.inl rfl)))))
  · exact joinNotice_ineligible _ _ _ (.inr (joinNotice_ineligible _ _ _ (.inl rfl)))
  · exact joinNotice_ineligible _ _ _ (.inl rfl)

theorem noNoticeWaits_joinMsg {s : State} (h : NoNoticeWaits s) (x : Content) : NoNoticeWaits (joinMsg x s) :=
  noNoticeWaits_mono h (fun k hk => by rwa [joinMsg_noticePending] at hk) ⟨_, rfl⟩ id

theorem noNoticeWaits_loseMessage {s : State} (h : NoNoticeWaits s) : NoNoticeWaits (loseMessage s) :=
  noNoticeWaits_mono h (fun k hk => by rwa [loseMessage_noticePending] at hk) ⟨[], by simp⟩ id

/-- A message that joins or is lost lets no notice wait. -/
theorem noNoticeWaits_overflowReply {s : State} (h : NoNoticeWaits s) (a : Option Account) :
    NoNoticeWaits (queueOverflowReply a s) := by
  unfold queueOverflowReply
  split
  · exact h
  · split
    · exact h
    · split
      · exact noNoticeWaits_joinMsg h _
      · exact noNoticeWaits_loseMessage h

/-- Where the link, the return lane's flags and queue and the changed set are as before, none waits as before. -/
theorem noNoticeWaits_congr {s t : State} (h : NoNoticeWaits s) (haddr : t.link.address = s.link.address)
    (hret : t.ret = s.ret) (hdiag : t.diag.changed = s.diag.changed) : NoNoticeWaits t :=
  noNoticeWaits_mono h (fun k hk => by rwa [noticePending_congr (s := s) hdiag (by rw [hret]) (by rw [hret]) (by rw [hret])] at hk)
    ⟨[], by rw [hret]; simp⟩ fun ha => by rwa [haddr] at ha

theorem wordOnDi_station (w : Word) (s : State) :
    (wordOnDi w s).link.address = s.link.address ∧ (wordOnDi w s).link.lastGood = s.link.lastGood :=
  (linkKeeps_station s.link).wordOnDi w ⟨rfl, rfl⟩

@[simp] theorem sendFlowChange_address (b : Flow) (s : State) : (sendFlowChange b s).link.address = s.link.address :=
  ((linkKeeps_station s.link).sendFlowChange b ⟨rfl, rfl⟩).1

theorem repeatFlow_station (s : State) :
    (repeatFlow s).link.address = s.link.address ∧ (repeatFlow s).link.lastGood = s.link.lastGood :=
  (linkKeeps_station s.link).repeatFlow ⟨rfl, rfl⟩

theorem endOnRi_station (ws : List Word) (s : State) :
    (endOnRi ws s).link.address = s.link.address ∧ (endOnRi ws s).link.lastGood = s.link.lastGood :=
  (linkKeeps_station s.link).endOnRi ws ⟨rfl, rfl⟩

theorem startTransmission_station (s : State) :
    (startTransmission s).link.address = s.link.address ∧ (startTransmission s).link.lastGood = s.link.lastGood :=
  (linkKeeps_station s.link).startTransmission ⟨rfl, rfl⟩

theorem startOnDi_station (s : State) :
    (startOnDi s).link.address = s.link.address ∧ (startOnDi s).link.lastGood = s.link.lastGood :=
  startOnDi_inv (Inv := fun x => x.link.address = s.link.address ∧ x.link.lastGood = s.link.lastGood)
    (fun _ => by simp [Link.begin]) (fun _ _ => by simp [Link.begin]) fun _ _ => by simp [Link.begin]

/-- A good sweep end at which no notice can become eligible leaves none waiting, before its messages join (R137). -/
theorem noNoticeWaits_goodEffects {s : State} (h : NoNoticeWaits s) {sw : Sweep} (hdue : noticesDue sw s = false) :
    NoNoticeWaits (goodEffects sw s) := by
  simp only [noticesDue, Bool.or_eq_false_iff, Bool.and_eq_false_iff, beq_eq_false_iff_ne] at hdue
  obtain ⟨henum, hreturn⟩ := hdue
  have hret : (goodEffects sw s).ret = s.ret := by
    rw [goodEffects_ret, if_neg]
    rintro ⟨h1, h2⟩
    rcases hreturn with hr | hr
    · rw [h1] at hr; cases hr
    · rw [h2] at hr; cases hr
  refine noNoticeWaits_mono h (fun k hk => ?_) ⟨[], by rw [hret]; simp⟩ fun _ haddr => ?_
  · rwa [noticePending_congr (s := s) (by rw [goodEffects_diag]) (by rw [hret]) (by rw [hret]) (by rw [hret])] at hk
  · rcases henum with henum | henum
    · have : (goodEffects sw s).link.address = s.link.address := by
        rw [goodEffects_link]
        unfold takeAddress
        split <;> simp_all
      simp_all
    · exact henum haddr

/-- No notice waits after a good sweep end (R137). -/
theorem noNoticeWaits_goodSweepEnd {s : State} (h : NoNoticeWaits s) (sw : Sweep) : NoNoticeWaits (goodSweepEnd sw s) := by
  unfold goodSweepEnd
  dsimp only
  split
  · split
    · split
      · exact joinNotices_noneWaits _
      · exact noNoticeWaits_overflowReply (joinNotices_noneWaits _) _
    · exact joinNotices_noneWaits _
  case isFalse hdue => exact noNoticeWaits_overflowReply (noNoticeWaits_goodEffects h (by simpa using hdue)) _

/-- No record joins the changed set and the supply state stays: the pending conditions are as before (R136). -/
theorem noNoticeWaits_cycleEvaluated {s : State} (h : NoNoticeWaits s) {obs : CycleObs}
    (hnone : ¬ ((cycleEvaluated obs s).supply.state != s.supply.state ||
      (List.finRange 63).any fun i => s.joinsAt obs i) = true) : NoNoticeWaits (cycleEvaluated obs s) := by
  simp only [Bool.or_eq_true, not_or, Bool.not_eq_true, List.any_eq_false, List.mem_finRange, true_implies] at hnone
  obtain ⟨hsupply, hjoin⟩ := hnone
  have hchanged : (cycleEvaluated obs s).diag.changed = s.diag.changed := by
    ext i hi
    have : (cycleEvaluated obs s).diag.changed[i] = (s.diag.changed[i] || s.joinsAt obs ⟨i, hi⟩) :=
      Vector.getElem_ofFn _
    rw [this, hjoin ⟨i, hi⟩, Bool.or_false]
  have hflag : (cycleEvaluated obs s).ret.supplyFlag = s.ret.supplyFlag := by
    show (s.ret.supplyFlag || (cycleEvaluated obs s).supply.state != s.supply.state) = s.ret.supplyFlag
    rw [hsupply, Bool.or_false]
  exact noNoticeWaits_mono h (fun k hk => by rwa [noticePending_congr (s := s) hchanged rfl hflag rfl] at hk)
    ⟨[], by simp [cycleEvaluated]⟩ id

@[simp] theorem clearFaultsRule_changed (p : Parcel) (s : State) :
    (clearFaultsRule p s).1.diag.changed = s.diag.changed := by simp only [clearFaultsRule, clearFaultsDiag]

/-- No notice waits after any operation (R137). -/
theorem noNoticeWaits_keeps : Keeps NoNoticeWaits where
  reset p s k := by
    have hp : noticePending (beginReset p s) k = false := by
      cases k
      case fault =>
        rw [← Bool.not_eq_true, noticePending_fault_iff]
        rintro ⟨i, hi⟩
        rw [show (beginReset p s).diag.changed[i] = false from Vector.getElem_ofFn _] at hi
        cases hi
      all_goals rfl
    rw [← Bool.not_eq_true, noticeEligible_iff, hp]
    rintro ⟨hc, _⟩
    cases hc
  pins _ _ h := noNoticeWaits_congr h rfl rfl rfl
  ended s h := noNoticeWaits_congr h (push_address _ _) rfl rfl
  start s h := noNoticeWaits_congr h (startOnDi_station s).1 (startOnDi_ret s) (by rw [startOnDi_diag])
  word w s h := noNoticeWaits_congr h (wordOnDi_station w s).1 (wordOnDi_ret w s) (by rw [wordOnDi_diag])
  done s h := endOnDi_inv h (fun _ => noNoticeWaits_congr h rfl rfl rfl)
    (fun _ _ => noNoticeWaits_congr h (by simp) rfl rfl) (fun _ _ => noNoticeWaits_congr h (by simp) rfl rfl)
    fun sw _ _ _ =>
      noNoticeWaits_goodSweepEnd (s := onLink _ s) (noNoticeWaits_congr h (by simp) rfl rfl) sw
  flow _ _ h := noNoticeWaits_congr h rfl rfl rfl
  again s h := noNoticeWaits_congr h (repeatFlow_station s).1 (repeatFlow_ret s) (by rw [repeatFlow_diag])
  send s h := noNoticeWaits_congr h (by rw [onLink_link]; unfold Link.sendOne; split <;> rfl) rfl rfl
  take _ _ _ h _ _ := noNoticeWaits_congr h rfl rfl rfl
  lose _ h := noNoticeWaits_loseMessage h
  rep _ _ _ _ _ h _ := noNoticeWaits_joinMsg h _
  history _ _ _ _ h := noNoticeWaits_congr h rfl rfl rfl
  write _ _ _ h := noNoticeWaits_congr h rfl rfl rfl
  commit _ _ h := noNoticeWaits_congr h rfl rfl rfl
  discard _ _ h := noNoticeWaits_congr h rfl rfl rfl
  freeze _ _ h := noNoticeWaits_congr h rfl rfl rfl
  thaw _ _ _ h := noNoticeWaits_congr h rfl rfl rfl
  image _ _ h := noNoticeWaits_congr h rfl rfl rfl
  ack _ h := noNoticeWaits_congr h rfl rfl rfl
  clear p s h := noNoticeWaits_congr h (by simp) (by simp) (clearFaultsRule_changed p s)
  restart s h := runRestart_inv h (fun _ _ _ _ => noNoticeWaits_congr h rfl rfl rfl)
    (fun _ hx => noNoticeWaits_loseMessage hx) (fun _ _ _ _ _ hx _ => noNoticeWaits_joinMsg hx _)
    (joinNotices_noneWaits _) fun _ => joinNotices_noneWaits _
  cycle _ h _ := noNoticeWaits_congr h rfl rfl rfl
  complete obs s h := by
    rw [completeCycle_eq]
    split
    · exact joinNotices_noneWaits _
    case isFalse hnone => exact noNoticeWaits_cycleEvaluated h hnone
  sample m n s h := by
    rw [sampleTemperature_eq]
    split
    · exact noNoticeWaits_congr h rfl rfl rfl
    · exact joinNotices_noneWaits _
  watch s h _ := by
    unfold expireWatch
    dsimp only
    split
    · exact joinNotices_noneWaits _
    · exact noNoticeWaits_congr h rfl rfl rfl
  hold _ _ _ := joinNotices_noneWaits _
  transmit s h := by
    unfold startTransmission
    split
    · exact h
    · split
      · exact h
      · refine noNoticeWaits_mono h (fun k hk => ?_) ⟨[], by simp⟩ fun ha => by simpa using ha
        cases k <;> simpa [noticePending] using hk
      · exact joinNotices_noneWaits _
  sent _ h := noNoticeWaits_mono h (fun k hk => by cases k <;> simpa [noticePending] using hk) ⟨[], by simp⟩ id
  riStart s h := by
    refine noNoticeWaits_mono h (fun k hk => ?_) ⟨[], by simp [startOnRi_ret]⟩ fun ha => by simpa using ha
    cases k <;> simpa [noticePending, startOnRi_ret] using hk
  riEnd ws s h := by
    refine noNoticeWaits_mono h (fun k hk => ?_) ⟨[], by simp [endOnRi_queue]⟩ fun ha => ?_
    · unfold endOnRi at hk
      repeat' split at hk
      all_goals cases k <;> simpa [noticePending] using hk
    · rwa [(endOnRi_station ws s).1] at ha

/-- Settles O53: where a notice can become eligible the notices have their turns, and elsewhere none becomes eligible. -/
theorem noNoticeEverWaits : Obligations.NoNoticeEverWaits := fun _ _ hstep h =>
  noNoticeWaits_keeps.step (fun _ _ hs => noNoticeWaits_congr hs rfl rfl rfl) hstep h

end Sys2Proof.Machine
end

section
/-! SUPPORT. What keeps monitors, timers, the CRITICAL cut and the receiver sound (R24, R80, R177, R183, R187). -/

namespace Sys2Proof.Machine

open Sys2Proof Sys2Proof.Safety

/-! ### Thermal and supply monitors -/

theorem Band.max_value (a b : Band) : (a.max b).value = Nat.max a.value b.value := by
  cases a <;> cases b <;> rfl

/-- The highest-band mark follows the band of a sample (R177). -/
theorem thermalAfter_bound (m : Int) (s : State) : (thermalAfter m s).band.value ≤ (thermalAfter m s).highest.value := by
  simp only [thermalAfter, Band.max_value]
  exact Nat.le_max_right _ _

/-- An evaluation of the supply keeps the agreement count below 2 and sets the supply-low mark with LOW (R183). -/
theorem evaluateSupply_sound (p : SupplyState) {x : Supply} (h : x.agree ≤ 1 ∧ (x.state = .low → x.lowMark = true)) :
    (evaluateSupply p x).agree ≤ 1 ∧ ((evaluateSupply p x).state = .low → (evaluateSupply p x).lowMark = true) := by
  obtain ⟨_, hlow⟩ := h
  unfold evaluateSupply
  split
  · exact ⟨Nat.zero_le _, hlow⟩
  · split
    · exact ⟨by dsimp only; omega, hlow⟩
    · exact ⟨Nat.zero_le _, fun h => by simp only at h; subst h; simp⟩

theorem monitors_congr {s t : State} (h : MonitorsSound s) (hth : t.thermal = s.thermal) (hsu : t.supply = s.supply) :
    MonitorsSound t := by
  unfold MonitorsSound
  rw [hth, hsu]
  exact h

theorem monitors_keeps : Keeps MonitorsSound where
  reset _ _ := ⟨le_refl _, Nat.zero_le _, fun h => by cases h⟩
  pins _ _ h := h
  ended _ h := h
  start _ h := monitors_congr h (by simp) (by simp)
  word _ _ h := monitors_congr h (by simp) (by simp)
  done _ h := monitors_congr h (by simp) (by simp)
  flow _ _ h := h
  again _ h := monitors_congr h (by simp) (by simp)
  send _ h := h
  take _ _ _ h _ _ := h
  lose _ h := h
  rep _ _ _ _ _ h _ := h
  history _ _ _ _ h := h
  write _ _ _ h := h
  commit _ _ h := h
  discard _ _ h := h
  freeze _ _ h := h
  thaw _ _ _ h := h
  image _ _ h := h
  ack _ h := h
  clear p s h := by
    obtain ⟨hband, hagree, hlow⟩ := h
    refine ⟨?_, ?_, ?_⟩ <;> simp only [clearFaultsRule]
    · split
      · exact le_refl _
      · exact hband
    · split <;> exact hagree
    · split
      · intro hl; simpa using hl
      · exact hlow
  restart _ h := monitors_congr h (by simp) (by simp)
  cycle _ h _ := h
  complete obs s h := by
    obtain ⟨hband, hsupply⟩ := h
    have he := evaluateSupply_sound (supplyPoints s.tables.policy.active obs.vlsEnd) hsupply
    rw [completeCycle_eq]
    split
    · exact monitors_congr (s := cycleEvaluated obs s) ⟨hband, he⟩ (by simp) (by simp)
    · exact ⟨hband, he⟩
  sample m n s h := by
    obtain ⟨_, hsupply⟩ := h
    rw [sampleTemperature_eq]
    split
    · exact ⟨thermalAfter_bound m s, hsupply⟩
    · exact monitors_congr (s := bandChanged m n s) ⟨thermalAfter_bound m s, hsupply⟩ (by simp) (by simp)
  watch _ h _ := monitors_congr h (by simp) (by simp)
  hold _ h _ := monitors_congr h (by simp) (by simp)
  transmit _ h := monitors_congr h (by simp) (by simp)
  sent _ h := h
  riStart _ h := monitors_congr h (by simp) (by simp)
  riEnd _ _ h := monitors_congr h (by simp) (by simp)

/-! ### Timers -/

theorem timers_congr {s t : State} (h : TimersSound s) (hw : t.watch = s.watch) : TimersSound t := by
  unfold TimersSound
  rw [hw]
  exact h

/-- Without a running timer the timers are sound. -/
theorem timers_idle {s : State} (hwatch : s.watch.watchTimer = none) (hhold : s.watch.holdTimer = none) :
    TimersSound s := by
  unfold TimersSound
  rw [hwatch, hhold]
  exact ⟨fun h => (by cases h), fun h => (by cases h)⟩

/-- In FALLBACK no timer runs (R191, R192). -/
theorem timers_fallback (s : State) :
    TimersSound { s with watch := { state := .fallback, watchTimer := none, holdTimer := none } } :=
  timers_idle rfl rfl

/-- What a good sweep end leaves of the link watch (R189, R190). -/
theorem goodSweepEnd_watch (sw : Sweep) (s : State) : (goodSweepEnd sw s).watch =
    if sw.kind.refreshes = true then
      { state := .live, watchTimer := watchStart s.tables.policy.active, holdTimer := none }
    else s.watch := by
  refine goodSweepEnd_inv (Inv := fun x => x.watch = _) ?_ (fun _ _ h => by simpa using h) (fun _ _ h => h)
    fun _ h => by simpa using h
  cases hr : sw.kind.refreshes
  · simp [goodEffects, hr]
  · cases hw : s.watch.state.returns <;> simp [goodEffects, refreshLink, hr, hw]

theorem timers_keeps : Keeps TimersSound where
  reset _ _ := timers_idle rfl rfl
  pins _ _ h := h
  ended _ h := h
  start _ h := timers_congr h (by simp)
  word _ _ h := timers_congr h (by simp)
  done s h := endOnDi_inv h (fun _ => h) (fun _ _ => h) (fun _ _ => h) fun sw _ _ _ => by
    unfold TimersSound
    rw [goodSweepEnd_watch]
    split
    · exact ⟨fun _ => rfl, fun h => (by cases h)⟩
    · exact h
  flow _ _ h := h
  again _ h := timers_congr h (by simp)
  send _ h := h
  take _ _ _ h _ _ := h
  lose _ h := h
  rep _ _ _ _ _ h _ := h
  history _ _ _ _ h := h
  write _ _ _ h := h
  commit _ _ h := h
  discard _ _ h := h
  freeze _ _ h := h
  thaw _ _ _ h := h
  image _ _ h := h
  ack _ h := h
  clear _ _ h := timers_congr h (by simp)
  restart s h := runRestart_frame h (fun _ _ _ _ => h) (fun _ hx => hx) (fun _ _ _ _ _ hx => hx)
    (fun _ hx => timers_congr hx (by simp)) (timers_idle rfl rfl)
  cycle _ h _ := h
  complete _ _ h := timers_congr h (by simp)
  sample _ _ _ h := timers_congr h (by simp)
  watch s h _ := by
    unfold expireWatch
    dsimp only
    split
    · exact timers_congr (timers_fallback s) (by simp)
    · exact ⟨fun h => (by cases h), fun _ => rfl⟩
  hold s _ _ := timers_congr (timers_fallback s) (joinNotices_watch _)
  transmit _ h := timers_congr h (by simp)
  sent _ h := h
  riStart _ h := timers_congr h (by simp)
  riEnd _ _ h := timers_congr h (by simp)

/-! ### The cut in CRITICAL -/

theorem criticalCut_congr {s t : State} (h : CriticalCut s) (hd : t.drive = s.drive) (ht : t.thermal = s.thermal) :
    CriticalCut t := by
  unfold CriticalCut
  rw [hd, ht]
  exact h

/-- A cycle that starts in CRITICAL starts with every output off-forced (R80). -/
theorem criticalCut_startCycle (s : State) : CriticalCut (startCycle s) := by
  intro _ hb c
  rw [startCycle_ch]
  replace hb : s.thermal.band = .critical := hb
  simp [State.takenAtStart, hb, DriveCh.offFrom]

/-- An entry into CRITICAL sets every off-forced mark (R80). -/
theorem cutOutputs_forced (n : Nat) (d : Drive) (c : Fin 16) : (cutOutputs n d).ch[c].offFrom.isSome = true := by
  rw [cutOutputs_ch]
  cases h : d.ch[c].off <;> simp [DriveCh.offFrom]

/-- Without a running cycle there is nothing to cut. -/
theorem criticalCut_idle {s : State} (h : s.drive.running = false) : CriticalCut s := fun hr => by
  rw [h] at hr; cases hr

theorem criticalCut_keeps : Keeps CriticalCut where
  reset _ _ := criticalCut_idle rfl
  pins _ _ h := h
  ended s _ := criticalCut_startCycle s
  start _ h := criticalCut_congr h (by simp) (by simp)
  word _ _ h := criticalCut_congr h (by simp) (by simp)
  done _ h := criticalCut_congr h (by simp) (by simp)
  flow _ _ h := h
  again _ h := criticalCut_congr h (by simp) (by simp)
  send _ h := h
  take _ _ _ h _ _ := h
  lose _ h := h
  rep _ _ _ _ _ h _ := h
  history _ _ _ _ h := h
  write _ _ _ h := h
  commit _ _ h := h
  discard _ _ h := h
  freeze _ _ h := h
  thaw _ _ _ h := h
  image _ _ h := h
  ack _ h := h
  clear p s h := by
    have hb : (clearFaultsRule p s).1.thermal.band = s.thermal.band := by
      simp only [clearFaultsRule]
      split <;> rfl
    unfold CriticalCut
    rw [clearFaultsRule_drive, hb]
    exact h
  restart _ h := criticalCut_congr h (by simp) (by simp)
  cycle s _ _ := criticalCut_startCycle s
  complete _ _ _ := criticalCut_idle (by simp)
  sample m n s h := by
    rw [sampleTemperature_eq]
    split
    case isTrue hsame =>
      intro hr hb
      exact h hr (hsame ▸ hb)
    case isFalse =>
      have hcut : CriticalCut (bandChanged m n s) := by
        intro _ hb c
        show (if (thermalAfter m s).band = .critical then cutOutputs n s.drive else s.drive).ch[c].offFrom.isSome = true
        rw [if_pos (show (thermalAfter m s).band = .critical from hb)]
        exact cutOutputs_forced n s.drive c
      exact criticalCut_congr hcut (by simp) (by simp)
  watch _ h _ := criticalCut_congr h (by simp) (by simp)
  hold _ h _ := criticalCut_congr h (by simp) (by simp)
  transmit _ h := criticalCut_congr h (by simp) (by simp)
  sent _ h := h
  riStart _ h := criticalCut_congr h (by simp) (by simp)
  riEnd _ _ h := criticalCut_congr h (by simp) (by simp)

/-! ### The receiver's place -/

/-- The receiver's place with the recorded forwarded payload count is sound (R13, R24, R29, R31). -/
def SoundRx (r : Rx) (n : Nat) : Prop :=
  match r with
  | .header got => got.length ≤ 2
  | .payload sw k => k < sw.p ∧ (sw.kind = .data → n ≤ sw.p) ∧ sw.p ≤ 4096 ∧ sw.q ≤ 31
  | .parcels sw left _ => 0 < left ∧ left ≤ sw.q ∧ sw.q ≤ 31
  | .waitStart | .trailer _ _ | .waitEnd _ _ _ | .skip => True

theorem receiverSound_iff {s : State} {r : Rx} {n : Nat} (hr : s.link.rx = r) (hn : s.link.fwdCount = n) :
    ReceiverSound s ↔ SoundRx r n := by
  subst hr hn
  unfold ReceiverSound SoundRx
  cases s.link.rx <;> rfl

theorem receiver_congr {s t : State} (h : ReceiverSound s) (hr : t.link.rx = s.link.rx)
    (hn : t.link.fwdCount = s.link.fwdCount) : ReceiverSound t :=
  (receiverSound_iff hr hn).mpr ((receiverSound_iff rfl rfl).mp h)

theorem afterHeader_sound {sw : Sweep} {n : Nat} (hn : sw.kind = .data → n ≤ sw.p) (hp : sw.p ≤ 4096) (hq : sw.q ≤ 31) :
    SoundRx sw.afterHeader n := by
  unfold Sweep.afterHeader
  split
  case isTrue h => exact ⟨h, hn, hp, hq⟩
  case isFalse =>
    split
    case isTrue h => exact ⟨h, le_refl _, hq⟩
    case isFalse => trivial

theorem afterPayload_sound {sw : Sweep} {k n : Nat} (h : SoundRx (.payload sw k) n) : SoundRx (sw.afterPayload k) n := by
  obtain ⟨_, hn, hp, hq⟩ := h
  unfold Sweep.afterPayload
  split
  case isTrue h => exact ⟨h, hn, hp, hq⟩
  case isFalse =>
    split
    case isTrue h => exact ⟨h, le_refl _, hq⟩
    case isFalse => trivial

theorem afterParcel_sound {sw : Sweep} {left n : Nat} (h : left ≤ sw.q) (hq : sw.q ≤ 31) :
    SoundRx (sw.afterParcel left) n := by
  unfold Sweep.afterParcel
  split
  · exact ⟨by omega, by omega, hq⟩
  · trivial

theorem forward_receiver {s t : State} {a b : Word} {r : Rx} (ht : t.link = ((s.link.feedIn a).sendWord b).enter r)
    (h : SoundRx r s.link.fwdCount) : ReceiverSound t :=
  (receiverSound_iff (by rw [ht, enter_rx]) (by rw [ht]; simp)).mpr h

theorem headerWord_receiver {s : State} {got : List Word} (w : Word) (hrx : s.link.rx = .header got) :
    ReceiverSound (headerWord got w s) := by
  match got with
  | [] => exact forward_receiver rfl (by simp [SoundRx])
  | [w0] => exact forward_receiver rfl (by simp [SoundRx])
  | w0 :: w1 :: _ =>
    simp only [headerWord]
    split
    case h_1 k hk =>
      obtain ⟨_, hp, _⟩ := (headerValidity.1 w0 w k).mp hk
      refine (receiverSound_iff rfl rfl).mpr (afterHeader_sound (fun hdata => ?_) hp (by dsimp only; rw [qOf_eq]; omega))
      replace hdata : k = .data := hdata
      subst hdata
      exact Nat.sub_le _ _
    case h_2 => exact (receiverSound_iff (rejectHeader_rx w s) rfl).mpr trivial

theorem payloadWord_receiver {s : State} {sw : Sweep} {k : Nat} (w : Word)
    (h : SoundRx (.payload sw k) s.link.fwdCount) : ReceiverSound (payloadWord sw k w s) := by
  have hnext := afterPayload_sound h
  have henum : ∀ a : Option Byte, SoundRx (({ sw with enumAddr := a } : Sweep).afterPayload k) s.link.fwdCount :=
    fun a => afterPayload_sound (sw := { sw with enumAddr := a }) h
  unfold payloadWord
  split
  · unfold dataWord
    dsimp only
    split
    · exact forward_receiver rfl hnext
    · split
      · exact (receiverSound_iff rfl rfl).mpr hnext
      · exact forward_receiver rfl hnext
  · exact forward_receiver rfl (henum _)
  · exact forward_receiver rfl hnext
  · exact forward_receiver rfl hnext

theorem parcelWord_receiver {s : State} {sw : Sweep} {left : Nat} {pos : ParcelPos} (w : Word)
    (h : SoundRx (.parcels sw left pos) s.link.fwdCount) : ReceiverSound (parcelWord sw left pos w s) := by
  obtain ⟨hpos, hleft, hq⟩ := h
  have hnext : ∀ len stored, SoundRx (sw.afterKindLen left len stored) s.link.fwdCount := fun len stored => by
    unfold Sweep.afterKindLen
    split
    · exact afterParcel_sound hleft hq
    · exact ⟨hpos, hleft, hq⟩
  cases pos with
  | addressWord => exact forward_receiver rfl ⟨hpos, hleft, hq⟩
  | kindLenWord target tag std => cases std <;> exact forward_receiver rfl (hnext _ _)
  | bodyWord n storing =>
    have hbody : SoundRx (if 1 < n then .parcels sw left (.bodyWord (n - 1) storing) else sw.afterParcel left)
        s.link.fwdCount := by
      split
      · exact ⟨hpos, hleft, hq⟩
      · exact afterParcel_sound hleft hq
    cases storing <;> exact forward_receiver rfl hbody

theorem wordOnDi_receiver {s : State} (h : ReceiverSound s) (w : Word) : ReceiverSound (wordOnDi w s) := by
  unfold wordOnDi
  split
  · exact h
  · exact h
  case h_3 got hrx => exact headerWord_receiver w hrx
  case h_4 sw k hrx => exact payloadWord_receiver w ((receiverSound_iff hrx rfl).mp h)
  case h_5 sw left pos hrx => exact parcelWord_receiver w ((receiverSound_iff hrx rfl).mp h)
  case h_6 sw c hrx => cases c <;> exact (receiverSound_iff rfl rfl).mpr trivial
  · exact receiver_congr h rfl rfl

/-! ### Where the receiver keeps its place -/

@[simp] theorem sendFlowChange_place (b : Flow) (s : State) : (sendFlowChange b s).link.rx = s.link.rx ∧
    (sendFlowChange b s).link.fwdCount = s.link.fwdCount := by
  rcases sendFlowChange_cases b s with e | ⟨_, _, e⟩ <;> rw [e] <;> simp

@[simp] theorem repeatFlow_place (s : State) : (repeatFlow s).link.rx = s.link.rx ∧
    (repeatFlow s).link.fwdCount = s.link.fwdCount := by
  unfold repeatFlow
  split <;> simp

@[simp] theorem startTransmission_place (s : State) : (startTransmission s).link.rx = s.link.rx ∧
    (startTransmission s).link.fwdCount = s.link.fwdCount := by
  unfold startTransmission
  split
  · simp
  · split <;> simp

@[simp] theorem endOnRi_place (ws : List Word) (s : State) : (endOnRi ws s).link.rx = s.link.rx ∧
    (endOnRi ws s).link.fwdCount = s.link.fwdCount := by
  unfold endOnRi
  repeat' split
  all_goals simp

@[simp] theorem sendOne_place (l : Link) : l.sendOne.rx = l.rx ∧ l.sendOne.fwdCount = l.fwdCount := by
  unfold Link.sendOne
  split <;> simp

theorem unstore_sound {r : Rx} {n : Nat} (h : SoundRx r n) : SoundRx r.unstore n := by
  cases r <;> exact h

theorem receiver_keeps : Keeps ReceiverSound where
  reset _ _ := trivial
  pins _ _ h := h
  ended s h := receiver_congr h (by simp [endReset]) (by simp [endReset])
  start s _ := by
    have hb : ∀ l : Link, SoundRx l.begin.rx l.begin.fwdCount := fun l => by rw [begin_rx]; exact Nat.zero_le 2
    exact startOnDi_inv (fun _ => (receiverSound_iff rfl rfl).mpr (hb _))
      (fun _ _ => (receiverSound_iff rfl rfl).mpr (hb _)) fun _ _ => (receiverSound_iff rfl rfl).mpr (hb _)
  word w _ h := wordOnDi_receiver h w
  done s h := by
    refine endOnDi_inv h (fun _ => (receiverSound_iff rfl rfl).mpr trivial)
      (fun _ _ => (receiverSound_iff (r := .waitStart) (by simp) rfl).mpr trivial)
      (fun _ _ => (receiverSound_iff (r := .waitStart) (by simp) rfl).mpr trivial)
      fun sw _ _ _ => (receiverSound_iff (r := .waitStart) ?_ rfl).mpr trivial
    rw [goodSweepEnd_link]
    unfold takeAddress
    split <;> simp
  flow _ _ h := receiver_congr h rfl rfl
  again s h := receiver_congr h (repeatFlow_place s).1 (repeatFlow_place s).2
  send s h := receiver_congr h (sendOne_place _).1 (sendOne_place _).2
  take _ _ _ h _ _ := h
  lose _ h := h
  rep _ _ _ _ _ h _ := h
  history _ _ _ _ h := h
  write _ _ _ h := h
  commit _ _ h := h
  discard _ _ h := h
  freeze _ _ h := h
  thaw _ _ _ h := h
  image _ _ h := h
  ack _ h := h
  clear _ _ h := receiver_congr h (by simp) (by simp)
  restart s h := runRestart_frame h (fun _ _ _ _ => h) (fun _ hx => hx) (fun _ _ _ _ _ hx => hx)
    (fun _ hx => receiver_congr hx (by simp) (by simp))
    ((receiverSound_iff (r := s.link.rx.unstore) (by simp [restartBlocks]) (by simp [restartBlocks])).mpr
      (unstore_sound ((receiverSound_iff rfl rfl).mp h)))
  cycle _ h _ := h
  complete _ _ h := receiver_congr h (by simp) (by simp)
  sample _ _ _ h := receiver_congr h (by simp) (by simp)
  watch _ h _ := receiver_congr h (by simp) (by simp)
  hold _ h _ := receiver_congr h (by simp) (by simp)
  transmit s h := receiver_congr h (startTransmission_place s).1 (startTransmission_place s).2
  sent _ h := h
  riStart _ h := receiver_congr h (by simp) (by simp)
  riEnd ws s h := receiver_congr h (endOnRi_place ws s).1 (endOnRi_place ws s).2

/-- Settles O57: monitors, timers, the cut and the receiver's place are four invariants that do not need each other. -/
theorem monitorsAndReceiverStaySound : Obligations.MonitorsAndReceiverStaySound :=
  fun _ _ hstep hmonitors htimers hcut hreceiver =>
    ⟨monitors_keeps.step (fun _ _ h => h) hstep hmonitors, timers_keeps.step (fun _ _ h => h) hstep htimers,
      criticalCut_keeps.step (fun _ _ h => h) hstep hcut, receiver_keeps.step (fun _ _ h => h) hstep hreceiver⟩

end Sys2Proof.Machine
end

section
/-! SUPPORT. What keeps the parcel buffer and the duplicate history sound (R111, R112, R114, R115, R117, R124, R125). -/

namespace Sys2Proof.Machine

open Sys2Proof Sys2Proof.Safety

/-! ### The parcel buffer beside the receiver's place -/

/-- Every parcel held has arrived whole, but for the one that the receiver stores now (R111, R112). -/
def WholeAt (r : Rx) (b : List Parcel) : Prop :=
  match r with
  | .parcels _ _ (.bodyWord n true) =>
    ∃ front last, b = front ++ [last] ∧ (∀ p ∈ front, Whole p) ∧ last.executable = false ∧
      last.body.length + n = last.len ∧ 0 < n
  | _ => ∀ p ∈ b, Whole p

/-- The receiver stores the body words of a parcel that is arriving (R112). -/
def Rx.stores (r : Rx) : Bool :=
  match r with
  | .parcels _ _ (.bodyWord _ storing) => storing
  | _ => false

/-- The bounds and the order of a parcel buffer (R111, R117). -/
def OrderedBuffer (b : List Parcel) : Prop :=
  b.length ≤ 8 ∧ reservedWords b ≤ 256 ∧ b.Pairwise fun x y => y.executable = true → x.executable = true

/-- The parcel buffer beside the receiver's place. -/
def SoundBuffer (s : State) : Prop := OrderedBuffer s.parcels.buffer ∧ WholeAt s.link.rx s.parcels.buffer

theorem soundBuffer_iff (s : State) : SoundBuffer s ↔ ParcelBufferSound s ∧ ParcelsWhole s := by
  unfold SoundBuffer ParcelsWhole WholeAt
  rcases hr : s.link.rx with _ | _ | _ | ⟨_, _, _ | _ | ⟨_, _ | _⟩⟩ | _ | _ | _ <;> rfl

theorem wholeAt_iff {r : Rx} (h : r.stores = false) (b : List Parcel) : WholeAt r b ↔ ∀ p ∈ b, Whole p := by
  rcases r with _ | _ | _ | ⟨_, _, _ | _ | ⟨_, _ | _⟩⟩ | _ | _ | _
  case parcels.bodyWord.true => cases h
  all_goals rfl

/-- An executable parcel has arrived whole, wherever the receiver stands. -/
theorem WholeAt.executable {r : Rx} {b : List Parcel} (h : WholeAt r b) {p : Parcel} (hp : p ∈ b)
    (hx : p.executable = true) : Whole p := by
  by_cases hs : r.stores = false
  · exact (wholeAt_iff hs b).mp h p hp
  · rcases r with _ | _ | _ | ⟨_, _, _ | _ | ⟨_, _ | _⟩⟩ | _ | _ | _
    case parcels.bodyWord.true =>
      obtain ⟨front, last, rfl, hfront, hlast, _⟩ := h
      rcases List.mem_append.mp hp with hp | hp
      · exact hfront p hp
      · rw [List.mem_singleton.mp hp, hlast] at hx; cases hx
    all_goals exact absurd rfl hs

/-- Where buffer and place are as before, or the receiver stores neither before nor after, the buffer is as sound. -/
theorem soundBuffer_congr {s t : State} (h : SoundBuffer s) (hb : t.parcels.buffer = s.parcels.buffer)
    (hr : t.link.rx = s.link.rx) : SoundBuffer t := by
  unfold SoundBuffer
  rw [hb, hr]
  exact h

theorem soundBuffer_of_not_stores {s t : State} (h : SoundBuffer s) (hb : t.parcels.buffer = s.parcels.buffer)
    (hs : s.link.rx.stores = false) (ht : t.link.rx.stores = false) : SoundBuffer t := by
  unfold SoundBuffer
  rw [hb, wholeAt_iff ht]
  exact ⟨h.1, (wholeAt_iff hs _).mp h.2⟩

/-- An empty buffer is sound while the receiver stores nothing. -/
theorem soundBuffer_nil {s : State} (hb : s.parcels.buffer = []) (hs : s.link.rx.stores = false) : SoundBuffer s := by
  unfold SoundBuffer
  rw [hb, wholeAt_iff hs]
  exact ⟨⟨Nat.zero_le _, Nat.zero_le _, List.Pairwise.nil⟩, nofun⟩

/-! ### Sweep ends, taking a parcel (R114, R115, R117) -/

theorem OrderedBuffer.sublist {a b : List Parcel} (h : OrderedBuffer b) (hs : a.Sublist b) : OrderedBuffer a := by
  obtain ⟨hlen, hwords, horder⟩ := h
  have : reservedWords a ≤ reservedWords b := (hs.map _).sum_le_sum fun _ _ => Nat.zero_le _
  exact ⟨hs.length_le.trans hlen, this.trans hwords, horder.sublist hs⟩

/-- A bad sweep end leaves the executable parcels, which have arrived whole (R115). -/
theorem soundBuffer_removed {s t : State} (h : SoundBuffer s)
    (hb : t.parcels.buffer = removeUnexecutable s.parcels.buffer) (ht : t.link.rx.stores = false) : SoundBuffer t := by
  unfold SoundBuffer
  rw [hb, wholeAt_iff ht]
  refine ⟨h.1.sublist List.filter_sublist, fun p hp => ?_⟩
  obtain ⟨hmem, hx⟩ := List.mem_filter.mp hp
  exact h.2.executable hmem hx

/-- A good sweep end makes every parcel executable (R114). -/
theorem soundBuffer_made {s t : State} (h : SoundBuffer s) (hs : s.link.rx.stores = false)
    (hb : t.parcels.buffer = makeExecutable s.parcels.buffer) (ht : t.link.rx.stores = false) : SoundBuffer t := by
  obtain ⟨⟨hlen, hwords, _⟩, hwhole⟩ := h
  rw [wholeAt_iff hs] at hwhole
  unfold SoundBuffer
  rw [hb, wholeAt_iff ht]
  refine ⟨⟨by simpa [makeExecutable] using hlen, ?_, ?_⟩, fun p hp => ?_⟩
  · simpa [reservedWords, makeExecutable, Function.comp_def] using hwords
  · rw [makeExecutable, List.pairwise_map]
    exact List.pairwise_of_forall fun _ _ _ => rfl
  · obtain ⟨q, hq, rfl⟩ := List.mem_map.mp hp
    exact hwhole q hq

/-- The parcel at the head leaves; when it is executable it is not the one that is arriving (R117). -/
theorem soundBuffer_take {s : State} (h : SoundBuffer s) {p : Parcel} {rest : List Parcel}
    (hb : s.parcels.buffer = p :: rest) (hx : p.executable = true) : SoundBuffer (takeParcel rest s) := by
  obtain ⟨hordered, hwhole⟩ := h
  rw [hb] at hordered hwhole
  refine ⟨hordered.sublist (List.sublist_cons_self p rest), ?_⟩
  show WholeAt s.link.rx rest
  by_cases hs : s.link.rx.stores = false
  · rw [wholeAt_iff hs] at hwhole ⊢
    exact fun q hq => hwhole q (List.mem_cons_of_mem _ hq)
  · generalize s.link.rx = r at hwhole hs ⊢
    rcases r with _ | _ | _ | ⟨_, _, _ | _ | ⟨_, _ | _⟩⟩ | _ | _ | _
    case parcels.bodyWord.true =>
      obtain ⟨front, last, he, hfront, hlast, hcount⟩ := hwhole
      cases front with
      | nil => cases he; rw [hx] at hlast; cases hlast
      | cons q front =>
        cases he
        exact ⟨front, last, rfl, fun x hm => hfront x (List.mem_cons_of_mem _ hm), hlast, hcount⟩
    all_goals exact absurd rfl hs

/-! ### A word of a parcel (R31, R112) -/

theorem storeBodyWord_concat (w : Word) (front : List Parcel) (p : Parcel) :
    storeBodyWord w (front ++ [p]) = front ++ [{ p with body := p.body ++ [w] }] := by
  induction front with
  | nil => rfl
  | cons q front ih =>
    cases front with
    | nil => rfl
    | cons r front => exact congrArg (q :: ·) ih

/-- A parcel that arrives joins the tail of a buffer it fits into; it is not executable (R112, R113). -/
theorem OrderedBuffer.concat {b : List Parcel} (h : OrderedBuffer b) {p : Parcel} (hfit : fitsBuffer b p.len = true)
    (hx : p.executable = false) : OrderedBuffer (b ++ [p]) := by
  rw [fitsBuffer, Bool.and_eq_true, decide_eq_true_eq, decide_eq_true_eq] at hfit
  unfold bufferPlaces bufferWords at hfit
  obtain ⟨hlen, hwords⟩ := hfit
  refine ⟨by simp; omega, by simpa [reservedWords] using hwords, ?_⟩
  rw [List.pairwise_append]
  refine ⟨h.2.2, List.pairwise_singleton _ _, fun x _ y hy hc => ?_⟩
  rw [List.mem_singleton.mp hy, hx] at hc
  cases hc

/-- A body word changes neither the bounds nor the order of the buffer. -/
theorem OrderedBuffer.replace_last {front : List Parcel} {p q : Parcel} (h : OrderedBuffer (front ++ [p]))
    (hlen : q.len = p.len) (hx : q.executable = p.executable) : OrderedBuffer (front ++ [q]) := by
  obtain ⟨hcount, hwords, horder⟩ := h
  refine ⟨by simpa using hcount, by simpa [reservedWords, hlen] using hwords, ?_⟩
  rw [List.pairwise_append] at horder ⊢
  obtain ⟨hfront, _, hlast⟩ := horder
  refine ⟨hfront, List.pairwise_singleton _ _, fun x hxm y hy => ?_⟩
  rw [List.mem_singleton.mp hy, hx]
  exact hlast x hxm p (List.mem_singleton_self p)

theorem wholeAt_concat {r : Rx} {front : List Parcel} {p : Parcel} (hr : r.stores = false)
    (hfront : ∀ q ∈ front, Whole q) (hp : Whole p) : WholeAt r (front ++ [p]) := by
  rw [wholeAt_iff hr]
  intro q hq
  rcases List.mem_append.mp hq with hq | hq
  · exact hfront q hq
  · rw [List.mem_singleton.mp hq]; exact hp

@[simp] theorem afterParcel_stores (sw : Sweep) (left : Nat) : (sw.afterParcel left).stores = false := by
  unfold Sweep.afterParcel
  split <;> rfl

theorem afterKindLen_not_stores (sw : Sweep) (left len : Nat) : (sw.afterKindLen left len false).stores = false := by
  unfold Sweep.afterKindLen
  split
  · simp
  · rfl

/-- A filtered-in parcel is stored when it may be and fits; else the buffer is as before (R112, R113). -/
theorem storeParcel_cases (p : Parcel) (e : Parcels) :
    (fitsBuffer e.buffer p.len = true ∧ storeParcel p e = ({ e with buffer := e.buffer ++ [p] }, true)) ∨
      ((storeParcel p e).1.buffer = e.buffer ∧ (storeParcel p e).2 = false) := by
  unfold storeParcel
  split
  · exact .inr ⟨rfl, rfl⟩
  · split
    case isTrue hfit =>
      rw [Bool.and_eq_true] at hfit
      exact .inl ⟨hfit.2, rfl⟩
    case isFalse => exact .inr ⟨rfl, rfl⟩

/-- The kind-and-length word of a filtered-in parcel: either it is stored and arrives from now on, or the buffer stays
(R112, R113). -/
theorem storeParcel_sound {s t : State} (h : SoundBuffer s) (hs : s.link.rx.stores = false) {sw : Sweep} {left : Nat}
    {p : Parcel} (hx : p.executable = false) (hempty : p.body = [])
    (hb : t.parcels.buffer = (storeParcel p s.parcels).1.buffer)
    (ht : t.link.rx = sw.afterKindLen left p.len (storeParcel p s.parcels).2) : SoundBuffer t := by
  have hwhole := (wholeAt_iff hs _).mp h.2
  rcases storeParcel_cases p s.parcels with ⟨hfit, e⟩ | ⟨hbuf, hstored⟩
  · rw [e] at hb ht
    unfold SoundBuffer
    rw [hb, ht]
    refine ⟨h.1.concat hfit hx, ?_⟩
    unfold Sweep.afterKindLen
    split
    case isTrue hzero => exact wholeAt_concat (by simp) hwhole (by rw [Whole, hempty, hzero]; rfl)
    case isFalse hpos => exact ⟨s.parcels.buffer, p, rfl, hwhole, hx, by rw [hempty]; simp, by omega⟩
  · exact soundBuffer_of_not_stores h (hb.trans hbuf) hs (by rw [ht, hstored]; exact afterKindLen_not_stores _ _ _)

theorem parcelWord_sound {s : State} (h : SoundBuffer s) {sw : Sweep} {left : Nat} {pos : ParcelPos} (w : Word)
    (hrx : s.link.rx = .parcels sw left pos) : SoundBuffer (parcelWord sw left pos w s) := by
  cases pos with
  | addressWord => exact soundBuffer_of_not_stores h rfl (by rw [hrx]; rfl) rfl
  | kindLenWord target tag std =>
    have hs : s.link.rx.stores = false := by rw [hrx]; rfl
    cases std with
    | none => exact soundBuffer_of_not_stores h rfl hs (afterKindLen_not_stores _ _ _)
    | some st => exact storeParcel_sound h hs (p := arrivingParcel sw target tag st w) rfl rfl rfl rfl
  | bodyWord n storing =>
    cases storing with
    | false =>
      refine soundBuffer_of_not_stores h rfl (by rw [hrx]; rfl) ?_
      show (if 1 < n then Rx.parcels sw left (.bodyWord (n - 1) false) else sw.afterParcel left).stores = false
      split
      · rfl
      · simp
    | true =>
      obtain ⟨hordered, hwhole⟩ := h
      rw [hrx] at hwhole
      obtain ⟨front, last, hb, hfront, hlast, hcount, hpos⟩ := hwhole
      rw [hb] at hordered
      have hbuf : (parcelWord sw left (.bodyWord n true) w s).parcels.buffer =
          front ++ [{ last with body := last.body ++ [w] }] := by
        show storeBodyWord w s.parcels.buffer = _
        rw [hb, storeBodyWord_concat]
      unfold SoundBuffer
      rw [hbuf]
      refine ⟨hordered.replace_last rfl rfl, ?_⟩
      show WholeAt (if 1 < n then Rx.parcels sw left (.bodyWord (n - 1) true) else sw.afterParcel left) _
      split
      case isTrue hmore => exact ⟨front, _, rfl, hfront, hlast, by simp; omega, by omega⟩
      case isFalse => exact wholeAt_concat (by simp) hfront (by simp [Whole]; omega)

/-! ### The other words on DI -/

@[simp] theorem afterHeader_stores (sw : Sweep) : sw.afterHeader.stores = false := by
  unfold Sweep.afterHeader
  repeat' split
  all_goals rfl

@[simp] theorem afterPayload_stores (sw : Sweep) (k : Nat) : (sw.afterPayload k).stores = false := by
  unfold Sweep.afterPayload
  repeat' split
  all_goals rfl

theorem headerWord_buffer (got : List Word) (w : Word) (s : State) : (headerWord got w s).parcels.buffer = s.parcels.buffer ∧
    (headerWord got w s).link.rx.stores = false := by
  unfold headerWord
  split
  · exact ⟨rfl, rfl⟩
  · exact ⟨rfl, rfl⟩
  · split
    · exact ⟨rfl, afterHeader_stores _⟩
    · exact ⟨rfl, rfl⟩

theorem payloadWord_stores (sw : Sweep) (k : Nat) (w : Word) (s : State) :
    (payloadWord sw k w s).link.rx.stores = false := by
  unfold payloadWord
  split
  · unfold dataWord
    dsimp only
    split
    · exact afterPayload_stores _ _
    · split <;> exact afterPayload_stores _ _
  all_goals exact afterPayload_stores _ _

theorem wordOnDi_sound {s : State} (h : SoundBuffer s) (w : Word) : SoundBuffer (wordOnDi w s) := by
  unfold wordOnDi
  split
  · exact h
  · exact h
  case h_3 got hrx =>
    exact soundBuffer_of_not_stores h (headerWord_buffer got w s).1 (by rw [hrx]; rfl) (headerWord_buffer got w s).2
  case h_4 sw k hrx =>
    exact soundBuffer_of_not_stores h (by simp) (by rw [hrx]; rfl) (payloadWord_stores sw k w s)
  case h_5 sw left pos hrx => exact parcelWord_sound h w hrx
  case h_6 sw c hrx => cases c <;> exact soundBuffer_of_not_stores h rfl (by rw [hrx]; rfl) rfl
  · exact soundBuffer_congr h rfl rfl

theorem goodSweepEnd_parcels (sw : Sweep) (s : State) : (goodSweepEnd sw s).parcels =
    { s.parcels with buffer := makeExecutable s.parcels.buffer, account := none } := by
  refine goodSweepEnd_inv (Inv := fun x => x.parcels = _) ?_ (fun _ _ h => by simpa using h) (fun _ _ h => h)
    fun _ h => by simpa using h
  cases hr : sw.kind.refreshes <;> simp [goodEffects, hr]

@[simp] theorem unstore_stores (r : Rx) : r.unstore.stores = false := by
  rcases r with _ | _ | _ | ⟨_, _, _ | _ | _⟩ | _ | _ | _ <;> rfl

/-- The parcel buffer stays sound beside the receiver's place at every operation (R111, R112, R117). -/
theorem soundBuffer_keeps : Keeps SoundBuffer where
  reset _ _ := soundBuffer_nil rfl rfl
  pins _ _ h := h
  ended s h := soundBuffer_congr h rfl (push_rx _ _)
  start s h := by
    have hb : ∀ l : Link, l.begin.rx.stores = false := fun l => by rw [begin_rx]; rfl
    refine startOnDi_inv (fun hrx => ?_) (fun got hrx => ?_) fun sw _ => soundBuffer_removed h rfl (hb _)
    · exact soundBuffer_of_not_stores h rfl (by rcases hrx with hrx | hrx <;> rw [hrx] <;> rfl) (hb _)
    · exact soundBuffer_of_not_stores h rfl (by rw [hrx]; rfl) (hb _)
  word w _ h := wordOnDi_sound h w
  done s h := by
    refine endOnDi_inv h (fun hrx => ?_) (fun got hrx => ?_) (fun _ _ => soundBuffer_removed h rfl rfl)
      fun sw hrx _ _ => soundBuffer_made h (by rw [hrx]; rfl) ?_ ?_
    · exact soundBuffer_of_not_stores h rfl (by rw [hrx]; rfl) rfl
    · exact soundBuffer_of_not_stores h rfl (by rw [hrx]; rfl) rfl
    · rw [goodSweepEnd_parcels]; rfl
    · rw [goodSweepEnd_link]
      unfold takeAddress
      split <;> rfl
  flow _ _ h := h
  again s h := soundBuffer_congr h (by simp) (repeatFlow_place s).1
  send s h := soundBuffer_congr h rfl (sendOne_place _).1
  take _ _ _ h hb hx := soundBuffer_take h hb hx
  lose _ h := h
  rep _ _ _ _ _ h _ := h
  history _ _ _ _ h := h
  write _ _ _ h := h
  commit _ _ h := h
  discard _ _ h := h
  freeze _ _ h := h
  thaw _ _ _ h := h
  image _ _ h := h
  ack _ h := h
  clear _ _ h := soundBuffer_congr h (by simp) (by simp)
  restart s h := runRestart_frame h (fun _ _ hb hx => soundBuffer_take h hb hx) (fun _ hx => hx)
    (fun _ _ _ _ _ hx => hx) (fun _ hx => soundBuffer_congr hx (by simp) (by simp))
    (soundBuffer_nil rfl (by simp [restartBlocks]))
  cycle _ h _ := h
  complete _ _ h := soundBuffer_congr h (by simp) (by simp)
  sample _ _ _ h := soundBuffer_congr h (by simp) (by simp)
  watch _ h _ := soundBuffer_congr h (by simp) (by simp)
  hold _ h _ := soundBuffer_congr h (by simp) (by simp)
  transmit s h := soundBuffer_congr h (by simp) (startTransmission_place s).1
  sent _ h := h
  riStart _ h := soundBuffer_congr h (by simp) (by simp)
  riEnd ws s h := soundBuffer_congr h (by simp) (endOnRi_place ws s).1

/-! ### The duplicate history (R124) -/

/-- A history of at most 4 entries with distinct tags, none 0 (R124). -/
def SoundHistory (h : List HistEntry) : Prop :=
  h.length ≤ 4 ∧ (h.Pairwise fun a b => a.tag ≠ b.tag) ∧ ∀ e ∈ h, e.tag ≠ 0

theorem soundHistory_nil : SoundHistory [] := ⟨Nat.zero_le _, List.Pairwise.nil, nofun⟩

theorem SoundHistory.sublist {a b : List HistEntry} (h : SoundHistory b) (hs : a.Sublist b) : SoundHistory a :=
  ⟨hs.length_le.trans h.1, h.2.1.sublist hs, fun e he => h.2.2 e (hs.subset he)⟩

/-- A new entry joins fewer than 4 entries of other tags. -/
theorem SoundHistory.concat {h : List HistEntry} (hs : SoundHistory h) (hlen : h.length < 4) {e : HistEntry}
    (hne : e.tag ≠ 0) (hnew : ∀ x ∈ h, x.tag ≠ e.tag) : SoundHistory (h ++ [e]) := by
  refine ⟨by simp; omega, ?_, fun x hx => ?_⟩
  · rw [List.pairwise_append]
    refine ⟨hs.2.1, List.pairwise_singleton _ _, fun x hx y hy => ?_⟩
    rw [List.mem_singleton.mp hy]
    exact hnew x hx
  · rcases List.mem_append.mp hx with hx | hx
    · exact hs.2.2 x hx
    · rw [List.mem_singleton.mp hx]; exact hne

theorem SoundHistory.add {h : List HistEntry} (hs : SoundHistory h) (k : ParcelKind) (tag : Byte) (code : ResultCode) :
    SoundHistory (addHistory k tag code h) := by
  unfold addHistory
  split
  · exact hs
  case isFalse hrec =>
    have htag : tag ≠ 0 := fun e => hrec (.inl e)
    dsimp only
    split
    case isTrue hany =>
      refine (hs.sublist List.filter_sublist).concat ?_ htag fun x hx => by simpa using (List.mem_filter.mp hx).2
      have hlt : (h.filter fun x => x.tag != tag).length < h.length := by
        rw [List.length_filter_lt_length_iff_exists]
        obtain ⟨x, hx, he⟩ := List.any_eq_true.mp hany
        exact ⟨x, hx, by simpa using he⟩
      have := hs.1
      omega
    case isFalse hany =>
      have hnew : ∀ x ∈ h, x.tag ≠ tag := fun x hx he => hany (List.any_eq_true.mpr ⟨x, hx, by simpa using he⟩)
      split
      case isTrue hlen => exact hs.concat hlen htag hnew
      case isFalse hlen =>
        refine (hs.sublist (List.drop_sublist 1 h)).concat ?_ htag fun x hx => hnew x (List.mem_of_mem_drop hx)
        have := hs.1
        rw [List.length_drop]
        simp only [historyPlaces] at hlen
        omega

theorem history_congr {s t : State} (h : HistorySound s) (ht : t.parcels.history = s.parcels.history) :
    HistorySound t := by
  unfold HistorySound
  rw [ht]
  exact h

theorem startOnDi_history (s : State) : (startOnDi s).parcels.history = s.parcels.history :=
  startOnDi_inv (Inv := fun x => x.parcels.history = s.parcels.history) (fun _ => rfl) (fun _ _ => rfl) fun _ _ => rfl

theorem wordOnDi_history (w : Word) (s : State) : (wordOnDi w s).parcels.history = s.parcels.history := by
  unfold wordOnDi
  split
  · rfl
  · rfl
  · unfold headerWord
    split
    · rfl
    · rfl
    · split <;> rfl
  · simp
  case h_5 sw left pos _ =>
    cases pos with
    | addressWord => rfl
    | kindLenWord target tag std =>
      cases std with
      | none => rfl
      | some st =>
        show (storeParcel _ s.parcels).1.history = s.parcels.history
        unfold storeParcel
        split
        · rfl
        · split <;> rfl
    | bodyWord n storing => cases storing <;> rfl
  · simp
  · rfl

/-- The duplicate history stays sound at every operation (R124). -/
theorem history_keeps : Keeps HistorySound where
  reset _ _ := soundHistory_nil
  pins _ _ h := h
  ended _ h := h
  start s h := history_congr h (startOnDi_history s)
  word w s h := history_congr h (wordOnDi_history w s)
  done s h := endOnDi_inv h (fun _ => h) (fun _ _ => h) (fun _ _ => h) fun _ _ _ _ =>
    history_congr h (by rw [goodSweepEnd_parcels]; rfl)
  flow _ _ h := h
  again _ h := history_congr h (by simp)
  send _ h := h
  take _ _ _ h _ _ := h
  lose _ h := h
  rep _ _ _ _ _ h _ := h
  history _ k tag code h := SoundHistory.add h k tag code
  write _ _ _ h := h
  commit _ _ h := h
  discard _ _ h := h
  freeze _ _ h := h
  thaw _ _ _ h := h
  image _ _ h := h
  ack _ h := h
  clear _ _ h := history_congr h (by simp)
  restart s h := runRestart_frame h (fun _ _ _ _ => h) (fun _ hx => hx) (fun _ _ _ _ _ hx => hx)
    (fun _ hx => history_congr hx (by simp)) soundHistory_nil
  cycle _ h _ := h
  complete _ _ h := history_congr h (by simp)
  sample _ _ _ h := history_congr h (by simp)
  watch _ h _ := history_congr h (by simp)
  hold _ h _ := history_congr h (by simp)
  transmit _ h := history_congr h (by simp)
  sent _ h := h
  riStart _ h := history_congr h (by simp)
  riEnd _ _ h := history_congr h (by simp)

/-- Settles O56: the buffer is kept beside the receiver's place, since a parcel is whole but while the receiver stores it;
the history is kept by itself. -/
theorem parcelEngineStaysSound : Obligations.ParcelEngineStaysSound := by
  intro s t hstep hbuffer hwhole hhistory
  have hs := soundBuffer_keeps.step (fun _ _ h => h) hstep ((soundBuffer_iff s).mpr ⟨hbuffer, hwhole⟩)
  obtain ⟨hbuffer', hwhole'⟩ := (soundBuffer_iff t).mp hs
  exact ⟨hbuffer', hwhole', history_keeps.step (fun _ _ h => h) hstep hhistory⟩

end Sys2Proof.Machine
end

section
/-! SUPPORT. The queue of commands, the power-on reset and its end, the VCC threshold (R44, R88, R208, R209), the first cycle
start (R78), and the soundness of the reset state. -/

namespace Sys2Proof.Machine

open Sys2Proof Sys2Proof.Safety

/-! ### Every command completes and leaves the queue of commands alone -/

/-- Settles O1: a step is the front command on the rest of the queue. -/
theorem stepRunsFrontCommand : Obligations.StepRunsFrontCommand :=
  ⟨fun _ _ => rfl, fun s h => by simp only [step, runFront, h]⟩

theorem exec_completes (c : Instr) (s : State) : ∃ t, exec c s = .next t := by
  cases c with
  | powerOnReset cause => cases cause <;> exact ⟨_, rfl⟩
  | resetRelease line => cases line <;> exact ⟨_, rfl⟩
  | vccFltDriveThreshold edge => cases edge <;> exact ⟨_, rfl⟩
  | _ => exact ⟨_, rfl⟩

theorem exec_cycleStart (s : State) : exec .cycleStart s = whenUp s fun x => if x.drive.running then x else startCycle x :=
  rfl

/-- What an operation leaves alone, the command that does it when no reset lasts leaves alone. -/
theorem whenUp_view {α : Type} (view : State → α) {s t : State} {f : State → State} (he : whenUp s f = .next t)
    (hf : view (f s) = view s) : view t = view s := by
  rcases whenUp_cases he with rfl | ⟨_, rfl⟩
  · rfl
  · exact hf

theorem exec_pending {c : Instr} {s t : State} (he : exec c s = .next t) : t.pending = s.pending := by
  cases c
  case powerOnReset cause => cases cause <;> cases he <;> (try split) <;> rfl
  case resetEnd => cases he; split <;> rfl
  case resetRelease line => cases line <;> cases he <;> exact releaseLines_pending _ _
  case vccFltDriveThreshold edge => cases edge <;> cases he <;> split <;> rfl
  case diStart => exact whenUp_view _ he (startOnDi_pending s)
  case diHeaderWord w | diPayloadWord w | diParcelWord w | diTrailerWord w | diExtraWord w | diDiscardedWord w =>
    exact whenUp_view _ he (wordOnDi_pending w s)
  case diEnd => exact whenUp_view _ he (endOnDi_pending s)
  case diFlowSymbol f => exact whenUp_view _ he rfl
  case flowSymbolRepeat => exact whenUp_view _ he (repeatFlow_pending s)
  case doSymbolTime => exact whenUp_view _ he rfl
  case ping | status | write | read | commit | discard | freeze | thaw | capture | readSnapshot | ackStart | clearFaults =>
    exact whenUp_view _ he (runParcel_pending _ _ (fun p x => by simp) s)
  case restart => exact whenUp_view _ he (runRestart_pending s)
  case unknownKindParcel => exact whenUp_view _ he (runUnknown_pending s)
  case cycleStart => exact whenUp_view _ ((exec_cycleStart s).symm.trans he) (by split <;> rfl)
  case cycleCompletion obs => exact whenUp_view _ he (by split <;> simp)
  case thermalSample m n => exact whenUp_view _ he (sampleTemperature_pending m n s)
  case watchExpiry => exact whenUp_view _ he (by split <;> simp)
  case holdoverExpiry => exact whenUp_view _ he (by split <;> simp)
  case transmissionStart => exact whenUp_view _ he (startTransmission_pending s)
  case transmissionCompletion => exact whenUp_view _ he rfl
  case riMessageStart => exact whenUp_view _ he (startOnRi_pending s)
  case riMessageReceived ws => exact whenUp_view _ he (endOnRi_pending ws s)

/-- Settles O2: every arm of the dispatch answers a next state, and its operation leaves the queue of commands alone. -/
theorem commandsCompleteAndKeepQueue : Obligations.CommandsCompleteAndKeepQueue := fun c s =>
  (exec_completes c s).imp fun _ he => ⟨he, exec_pending he⟩

/-! ### The power-on reset -/

theorem exec_powerOnReset_pulse {ns : Nat} (h : ns < 1000) (s : State) :
    exec (.powerOnReset (.rstnLow ns)) s = .next s := congrArg _ (if_pos h)

theorem exec_powerOnReset_rstn {ns : Nat} (h : 1000 ≤ ns) (s : State) : exec (.powerOnReset (.rstnLow ns)) s =
    .next (beginReset { s.pins with rstnLow := true } s) := congrArg _ (if_neg (by unfold rstnMinimumNs; omega))

theorem exec_powerOnReset_vcc (s : State) : exec (.powerOnReset .vccLow) s =
    .next (beginReset { s.pins with vcc := if s.pins.vcc = .below15 then .below15 else .below27 } s) := rfl

theorem exec_vccFalling_normal {s : State} (h : s.pins.vcc = .normal) : exec (.vccFltDriveThreshold .falling) s =
    .next (beginReset { s.pins with vcc := .below15 } s) := congrArg _ (if_pos h)

theorem exec_vccFalling_low {s : State} (h : s.pins.vcc ≠ .normal) : exec (.vccFltDriveThreshold .falling) s =
    .next { s with pins := { s.pins with vcc := .below15 } } := congrArg _ (if_neg h)

theorem exec_vccRising {s : State} (h : s.pins.vcc = .below15) : exec (.vccFltDriveThreshold .rising) s =
    .next { s with pins := { s.pins with vcc := .below27 } } := congrArg _ (if_pos h)

/-- What a power-on reset leaves of the node (R208). -/
theorem beginReset_eq (p : Pins) (s : State) : beginReset p s =
    { State.reset with
      link := { State.reset.link with doQueue := [] }
      drive := { State.reset.drive with running := false }
      pins := { p with phase := .held }
      freeUses := s.freeUses
      pending := s.pending } := powerOnValues_eq _ s

/-- Settles O3: a short low is no event, and both causes begin the reset with the pins they leave. -/
theorem powerOnResetValues : Obligations.PowerOnResetValues := by
  refine ⟨fun s ns h => exec_powerOnReset_pulse h s, fun s ns h => ?_, fun s => ?_⟩
  · rw [exec_powerOnReset_rstn h, beginReset_eq]
  · rw [exec_powerOnReset_vcc, beginReset_eq]

/-- A command that begins a power-on reset puts the power-on values in force, whatever the pins (R208). -/
theorem exec_of_beginsReset {c : Instr} {s : State} (h : beginsReset c s) : ∃ p, exec c s = .next (beginReset p s) := by
  match c, h with
  | .powerOnReset (.rstnLow _), h => exact ⟨_, exec_powerOnReset_rstn h s⟩
  | .powerOnReset .vccLow, _ => exact ⟨_, exec_powerOnReset_vcc s⟩
  | .vccFltDriveThreshold .falling, h => exact ⟨_, exec_vccFalling_normal h⟩

/-! ### The power-on contents of the sections (R88) -/

/-- What the words of the power-on contents say, field by field (R88). -/
theorem powerOnWords_contents :
    (mapCount mapWords0 = 0 ∧ ∀ o, o < 49 → wordAt mapWords0 o = 0) ∧
    (∀ k, k < 4 → ∀ i, i < 17 → curvePoint curvesWords0 k i = 256 * i) ∧
    (∀ ch, ch < 16 → driveCode driveWords0 ch = 0 ∧ (drivePhase driveWords0 ch).val = ch % 4 ∧
      drivePolicy driveWords0 ch = .report ∧ ∀ k, k < 4 → driveMask driveWords0 ch k = true) ∧
    driveRate driveWords0 = 1 ∧
    (polW policyWords0 = 50 ∧ polH policyWords0 = 20 ∧ polWarm policyWords0 = 100 ∧ polHot policyWords0 = 125 ∧
      polDw policyWords0 = 192 ∧ polDh policyWords0 = 96 ∧ polConfirm policyWords0 = 3 ∧ polClear policyWords0 = 3 ∧
      (∀ k, k < 4 → polEnable policyWords0 k = true) ∧ polShort policyWords0 = 1 ∧ polSupply policyWords0 = 1 ∧
      ∀ ch, ch < 16 → polFallback policyWords0 ch = 0) := by decide +kernel

/-- Settles O4: every beginning of a reset puts the same sections in force, read field by field. -/
theorem powerOnSections : Obligations.PowerOnSections := by
  intro c s h
  obtain ⟨p, he⟩ := exec_of_beginsReset h
  obtain ⟨hmap, hcurves, hdrive, hrate, hpolicy⟩ := powerOnWords_contents
  exact ⟨_, he, ⟨rfl, rfl, rfl, rfl⟩, rfl, fun x => by cases x <;> exact ⟨rfl, rfl⟩, hmap, hcurves, hdrive, hrate, hpolicy,
    powerOnWords_valid⟩

/-! ### The end of a reset -/

/-- With both lines released the count of 1 ms begins; while one is held it does not (R208). -/
theorem releaseLines_held {p : Pins} {s : State} (h : s.pins.phase = .held) (hp : p.phase = .held) : releaseLines p s =
    { s with pins := { p with phase := if p.rstnLow = false ∧ p.vcc = .normal then .counting else .held } } := by
  unfold releaseLines
  by_cases hc : p.rstnLow = false ∧ p.vcc = .normal
  · rw [if_pos ⟨h, hc⟩, if_pos hc]
  · rw [if_neg fun x => hc x.2, if_neg hc, ← hp]

theorem exec_resetEnd_counting {s : State} (h : s.pins.phase = .counting) : exec .resetEnd s = .next (endReset s) :=
  congrArg _ (if_pos h)

/-- The release of the line that began a reset, the other one being released, and the end of the 1 ms leave the reset state
(R208). -/
theorem releaseLines_then_end {p q : Pins} (s : State) (hq : q = { rstnLow := false, vcc := .normal, phase := .held }) :
    ∃ u, releaseLines q (beginReset p s) = u ∧
      exec .resetEnd u = .next { State.reset with freeUses := s.freeUses, pending := s.pending } := by
  subst hq
  refine ⟨_, rfl, ?_⟩
  rw [releaseLines_held rfl rfl, exec_resetEnd_counting rfl]
  exact congrArg _ (endReset_powerOnValues { rstnLow := false, vcc := .normal, phase := .counting } s)

/-- Settles O5: reset, release and end of the count in a row, for either line. -/
theorem resetEndsInResetState : Obligations.ResetEndsInResetState := by
  refine ⟨fun s ns hvcc hns => ?_, fun s hrstn => ?_⟩
  · obtain ⟨u, hu, hend⟩ := releaseLines_then_end (p := { s.pins with rstnLow := true })
      (q := { rstnLow := false, vcc := s.pins.vcc, phase := .held }) s (by rw [hvcc])
    exact ⟨_, u, exec_powerOnReset_rstn hns s, congrArg _ hu, hend⟩
  · obtain ⟨u, hu, hend⟩ := releaseLines_then_end
      (p := { s.pins with vcc := if s.pins.vcc = .below15 then .below15 else .below27 })
      (q := { rstnLow := s.pins.rstnLow, vcc := .normal, phase := .held }) s (by rw [hrstn])
    exact ⟨_, u, exec_powerOnReset_vcc s, congrArg _ hu, hend⟩

/-- While a reset lasts only its own commands and the VCC threshold do anything (R208). -/
theorem exec_in_reset {c : Instr} {s : State} (h : s.pins.phase ≠ .up) : exec c s = .next s ∨
    (∃ x, c = .powerOnReset x) ∨ (∃ x, c = .resetRelease x) ∨ c = .resetEnd ∨ ∃ x, c = .vccFltDriveThreshold x := by
  have hw : ∀ f, whenUp s f = .next s := fun f => congrArg _ (if_neg h)
  cases c
  case powerOnReset x => exact .inr (.inl ⟨x, rfl⟩)
  case resetRelease x => exact .inr (.inr (.inl ⟨x, rfl⟩))
  case resetEnd => exact .inr (.inr (.inr (.inl rfl)))
  case vccFltDriveThreshold x => exact .inr (.inr (.inr (.inr ⟨x, rfl⟩)))
  case cycleStart => exact .inl ((exec_cycleStart s).trans (hw _))
  all_goals exact .inl (hw _)

/-- Settles O6: the phase moves by the releases alone, and every other command is guarded by it. -/
theorem resetLastsAndHoldsTheNode : Obligations.ResetLastsAndHoldsTheNode := by
  refine ⟨fun s h => ⟨?_, ?_, ?_⟩, fun c s h => exec_in_reset h⟩
  · exact congrArg _ (if_neg (by rw [h]; decide))
  · refine congrArg Host.Outcome.next ((releaseLines_held (p := { s.pins with rstnLow := false }) h h).trans ?_)
    simp
  · refine congrArg Host.Outcome.next ((releaseLines_held (p := { s.pins with vcc := .normal }) h h).trans ?_)
    cases s.pins.rstnLow <;> simp

/-! ### The VCC threshold -/

/-- Below 1.5 V the output stands at high impedance (R209). -/
theorem fltLow_below15 {s : State} (h : s.pins.vcc = .below15) : s.fltLow = false := by
  simp [State.fltLow, h]

/-- Settles O8: a fall leaves VCC below 1.5 V, with or without the beginning of a reset; a rise leaves the phase alone. -/
theorem vccThresholdGovernsFaultLine : Obligations.VccThresholdGovernsFaultLine := by
  refine ⟨fun s h => exec_vccFalling_low h, fun s h => ?_, fun s t he => ?_, fun s h => exec_vccRising h,
    fun s t hvcc hphase he => ?_⟩
  · rw [exec_vccFalling_normal h, beginReset_eq]
  · by_cases h : s.pins.vcc = .normal
    · rw [exec_vccFalling_normal h] at he
      cases he
      exact fltLow_below15 rfl
    · rw [exec_vccFalling_low h] at he
      cases he
      exact fltLow_below15 rfl
  · rw [exec_vccRising hvcc] at he
    cases he
    rw [faultLineLevel]
    exact ⟨nofun, .inl (.inr hphase)⟩

/-! ### A cycle start -/

/-- Settles O41: a cycle start is the taking of all values together, and none starts while one runs. -/
theorem cycleStartTakesValues : Obligations.CycleStartTakesValues := by
  refine ⟨fun s hup hidle => ?_, fun s hrun => ?_, by decide⟩
  · rw [exec_cycleStart, whenUp_of_up hup, if_neg (by simp [hidle])]
    rfl
  · rw [exec_cycleStart, whenUp, if_pos hrun, ite_self]

/-! ### The reset state -/

theorem soundDiag_reset : SoundDiag State.reset := by
  refine ⟨fun i => ?_, fun c r hr => ?_⟩
  · rw [show State.reset.diag.records[i] = _ from Vector.getElem_replicate _]
    exact soundRecord_clear
  · rw [show State.reset.diag.latches[c] = none from Vector.getElem_replicate _] at hr
    cases hr

/-- An unaddressed node queues no notice (R137). -/
theorem noNoticeWaits_reset : NoNoticeWaits State.reset := fun k => by
  rw [Bool.eq_false_iff, Ne, noticeEligible_iff]
  rintro ⟨-, haddress, -⟩
  exact haddress rfl

theorem onTimes_reset : OnTimesSound State.reset := fun c => by
  rw [show State.reset.drive.ch[c] = _ from Vector.getElem_ofFn _]
  exact Nat.zero_le _

/-- Settles O58: each invariant of the step statements, at reset. -/
theorem resetStateIsSound : Obligations.ResetStateIsSound := by
  obtain ⟨hlatches, hruns⟩ := (soundDiag_iff _).mpr soundDiag_reset
  obtain ⟨hbuffer, hwhole⟩ := (soundBuffer_iff State.reset).mp (soundBuffer_nil rfl rfl)
  exact ⟨soundQueue_nil, ⟨Nat.zero_le _, nofun, Nat.zero_le _⟩, Nat.le_of_ble_eq_true rfl, noNoticeWaits_reset,
    (tablesSound_iff _).mpr soundTables_reset, onTimes_reset, hlatches, hruns, hbuffer, hwhole, soundHistory_nil,
    ⟨le_refl _, Nat.zero_le _, nofun⟩, timers_idle rfl rfl, fun _ => nofun, trivial⟩

end Sys2Proof.Machine
end

section
/-! SUPPORT. The symbols on DI, one receiver state after the other (R22 to R40): flow symbols, START, the header, the payload,
the parcels, what comes outside a sweep, and the bad sweep end. -/

namespace Sys2Proof.Machine

open Sys2Proof Sys2Proof.Safety

/-! ### Words on DI, and which receiver states hold a sweep in flight -/

/-- Every word on DI is taken as the receiver state says, under whichever command it comes (log entry 8). -/
theorem exec_diWord {c : Instr} {w : Word} (h : diWord c = some w) (s : State) : exec c s = whenUp s (wordOnDi w) := by
  cases c
  case diHeaderWord | diPayloadWord | diParcelWord | diTrailerWord | diExtraWord | diDiscardedWord => cases h; rfl
  all_goals cases h

theorem exec_diWord_of_up {c : Instr} {w : Word} {s : State} (hup : Up s) (h : diWord c = some w) :
    exec c s = .next (wordOnDi w s) := (exec_diWord h s).trans (whenUp_of_up hup _)

theorem exec_diStart_of_up {s : State} (h : Up s) : exec .diStart s = .next (startOnDi s) := whenUp_of_up h _

theorem exec_diEnd_of_up {s : State} (h : Up s) : exec .diEnd s = .next (endOnDi s) := whenUp_of_up h _

theorem Rx.inFlight_eq_false_iff (r : Rx) : r.inFlight = false ↔ r = .waitStart ∨ r = .skip := by
  cases r <;> simp [Rx.inFlight]

theorem inFlight_of_accepted {r : Rx} {sw : Sweep} (h : acceptedSweep r = some sw) : r.inFlight = true := by
  cases r <;> simp_all [acceptedSweep, Rx.inFlight]

theorem inFlight_of_header {r : Rx} {got : List Word} (h : r = .header got) : r.inFlight = true := by rw [h]; rfl

/-- A word sent on leaves the receiver where it is. -/
@[simp] theorem sentOn_rx (l : Link) (w : Word) : (sentOn l w).rx = l.rx := by unfold sentOn; split <;> rfl

/-- A word that goes on unchanged or rewritten while the receiver takes its next state (R31, R32). -/
theorem onLink_forward {s : State} (h : s.link.rx.inFlight = true) (a b : Word) (r : Rx) :
    onLink (fun l => ((l.feedIn a).sendWord b).enter r) s =
      { s with link := { sentOn s.link b with rx := r, inCrc := crcWord s.link.inCrc a } } :=
  congrArg (fun l => { s with link := l }) (feed_send_enter h a b r)

/-! ### Bytes of a word -/

theorem loByte_eq (w : Word) : loByte w = BitVec.ofNat 8 w.toNat := by
  apply BitVec.eq_of_toNat_eq
  simp [loByte, BitVec.extractLsb'_toNat]

theorem loByte_toNat (w : Word) : (loByte w).toNat = w.toNat % 256 := by rw [loByte_eq]; rfl

theorem hiByte_eq (w : Word) : hiByte w = BitVec.ofNat 8 (w.toNat / 256) := by
  apply BitVec.eq_of_toNat_eq
  simp [hiByte, BitVec.extractLsb'_toNat, Nat.shiftRight_eq_div_pow]

theorem hiByte_toNat (w : Word) : (hiByte w).toNat = w.toNat / 256 := by
  rw [hiByte_eq, BitVec.toNat_ofNat, Nat.mod_eq_of_lt (by have := w.isLt; omega)]

/-! ### Flow symbols -/

/-- Settles O9: the record is one field; the repeat asks whether a sweep is in flight, and joins as the queue has room. -/
theorem flowSymbolsRecordedAndRepeated : Obligations.FlowSymbolsRecordedAndRepeated := by
  refine ⟨fun s f hup => whenUp_of_up hup _, fun s hup hrx => ?between, fun s hup hw hs => ?inside⟩
  case between =>
    have hidle := (Rx.inFlight_eq_false_iff _).mpr hrx
    refine (whenUp_of_up hup repeatFlow).trans (congrArg _ ?_)
    rw [repeatFlow, if_neg (by simp [hidle]), onLink, push_queued hidle]
    rfl
  case inside =>
    refine (whenUp_of_up hup repeatFlow).trans (congrArg _ (if_pos ?_))
    rw [← Bool.not_eq_false, Rx.inFlight_eq_false_iff]
    exact not_or.mpr ⟨hw, hs⟩

/-! ### The bad sweep end and START -/

theorem badSweepEnd_eq (sw : Sweep) (s : State) : badSweepEnd sw s = afterBadEnd sw s := by
  have hlevels : levelsAtBadEnd sw.kind s.levels = if sw.kind = .data then unstaged s.levels else s.levels := by
    cases sw.kind <;> rfl
  rw [badSweepEnd, hlevels]
  rfl

/-- START closes the outgoing sweep and ends the one in flight bad, which had its header acceptance (R36, R39). -/
theorem startOnDi_accepted {s : State} {sw : Sweep} (h : acceptedSweep s.link.rx = some sw) : startOnDi s =
    onLink Link.begin (badSweepEnd sw (onLink (Link.close poisonMark s.asked) s)) := by
  unfold startOnDi
  cases hrx : s.link.rx <;> rw [hrx] at h <;> cases h <;> rfl

/-- END ends a sweep bad that had its header acceptance and is not awaiting END (R37). -/
theorem endOnDi_early {s : State} {sw : Sweep} (h : acceptedSweep s.link.rx = some sw)
    (hbad : ∀ c m, s.link.rx = .waitEnd sw c m → goodVerdict s.link c m = false) :
    endOnDi s = badSweepEnd sw (earlyClose s) := by
  unfold endOnDi
  cases hrx : s.link.rx <;> rw [hrx] at h <;> cases h
  case waitEnd c m => exact if_neg (by simp [hbad c m hrx])
  all_goals rfl

theorem startOnDi_idle {s : State} (h : s.link.rx = .waitStart ∨ s.link.rx = .skip) :
    startOnDi s = onLink Link.begin s := by
  unfold startOnDi
  rcases h with h | h <;> rw [h]

theorem startOnDi_header {s : State} {got : List Word} (h : s.link.rx = .header got) :
    startOnDi s = onLink Link.begin (onLink (Link.close poisonMark s.asked) s) := by
  unfold startOnDi
  rw [h]

/-- Settles O12: by the receiver state START finds: nothing in flight, a header, a sweep accepted. -/
theorem startBeginsSweep : Obligations.StartBeginsSweep := by
  refine ⟨fun s hup hrx => ?_, fun s got hup hrx => ?_, fun s sw hup hrx => ?_⟩
  · rw [exec_diStart_of_up hup, startOnDi_idle hrx, onLink, begin_queued]
  · rw [exec_diStart_of_up hup, startOnDi_header hrx]
    exact congrArg (fun l => Host.Outcome.next { s with link := l }) (close_begin (inFlight_of_header hrx) poisonMark s.asked)
  · rw [exec_diStart_of_up hup, startOnDi_accepted hrx, badSweepEnd_eq]
    exact congrArg (fun l => Host.Outcome.next { afterBadEnd sw s with link := l })
      (close_begin (inFlight_of_accepted hrx) poisonMark s.asked)

/-- What an early close leaves (R37). -/
theorem earlyClose_eq {s : State} (h : s.link.rx.inFlight = true) : earlyClose s =
    { s with link := { closedWith 0xA53C s.asked s.link with rx := .waitStart } } :=
  congrArg (fun l => { s with link := l.enter .waitStart }) (close_closedWith h poisonMark s.asked)

theorem goodVerdict_eq_false_iff (l : Link) (c m : Bool) : goodVerdict l c m = false ↔
    l.framingExact = false ∨ c = false ∨ m = false ∨ l.voidMark = true := by
  simp only [goodVerdict, Bool.and_eq_false_iff, Bool.not_eq_false', or_assoc]

/-- Settles O25: END closes the sweep early, and but for a sweep in HEADER ends it bad. -/
theorem Settled.badSweepEnd : Obligations.BadSweepEnd := by
  refine ⟨fun s sw hup hrx hbad => ?_, fun s got hup hrx => ?_⟩
  · rw [exec_diEnd_of_up hup, endOnDi_early hrx fun c m h => (goodVerdict_eq_false_iff _ _ _).mpr (hbad c m h),
      badSweepEnd_eq, earlyClose_eq (inFlight_of_accepted hrx)]
    rfl
  · rw [exec_diEnd_of_up hup, ← earlyClose_eq (inFlight_of_header hrx), endOnDi, hrx]

/-! ### The header -/

/-- The first two header words go on unchanged (R26). -/
theorem headerWord_early {got : List Word} (h : got.length < 2) (w : Word) (s : State) : headerWord got w s =
    onLink (fun l => ((l.feedIn w).sendWord w).enter (.header (got ++ [w]))) s := by
  match got, h with
  | [], _ => rfl
  | [_], _ => rfl

/-- An invalid header goes on and is closed at once (R28). -/
theorem rejectHeader_eq {s : State} (h : s.link.rx.inFlight = true) (w : Word) : rejectHeader w s =
    { s with link := { closedWith 0xA53C s.asked (sentOn s.link w) with
        rx := .skip, inCrc := crcWord s.link.inCrc w } } := by
  have hfed : (s.link.feedIn w).rx.inFlight = true := h
  have hsent : (sentOn (s.link.feedIn w) w).rx.inFlight = true := by simpa using h
  have hfirst : sentOn (s.link.feedIn w) w = { sentOn s.link w with inCrc := crcWord s.link.inCrc w } := by
    unfold sentOn
    rw [feedIn_doQueue]
    split <;> rfl
  rw [rejectHeader, onLink, sendWord_sentOn hfed, close_closedWith hsent, hfirst]
  rfl

/-- Settles O13: the words of the header before its third, and the third of an invalid one. -/
theorem headerWordsForwardedAndInvalidClosed : Obligations.HeaderWordsForwardedAndInvalidClosed := by
  refine ⟨fun s got w hup hrx hgot => ?_, fun s w0 w1 w2 hup hrx hbad => ?_⟩
  · rw [exec_diHeaderWord_of_up hup, wordOnDi_header hrx, headerWord_early hgot, onLink_forward (inFlight_of_header hrx)]
  · rw [exec_diHeaderWord_of_up hup, wordOnDi_header hrx, headerWord_rejected hbad,
      rejectHeader_eq (inFlight_of_header hrx)]

/-- What a swap makes of a section (R102). -/
theorem swapped_swap {n : Nat} (x : Section n) : Swapped x x.swap := by
  unfold Swapped Section.swap
  split
  · exact ⟨rfl, rfl, rfl, rfl, rfl⟩
  · rfl

theorem holdOf_eq (w : Word) : holdOf w = decide (w.toNat / 2048 % 2 = 1) := by
  simp [holdOf, BitVec.getLsbD, Nat.testBit_eq_decide_div_mod_eq]

/-- Settles O14: acceptance is the swap, the clearing, the account and the word sent on, on the sweep just read. -/
theorem headerAcceptance : Obligations.HeaderAcceptance := by
  intro s w0 w1 w2 k hup hrx hk
  refine ⟨acceptHeader k w0 w1 w2 s, _, _,
    by rw [exec_diHeaderWord_of_up hup, wordOnDi_header hrx, headerWord_accepted hk],
    swapped_swap _, swapped_swap _, swapped_swap _, swapped_swap _, rfl, rfl, ?_⟩
  rw [← holdOf_eq, ← qOf_eq]
  unfold acceptHeader
  simp only [feed_send_enter (inFlight_of_header hrx)]
  rfl

/-- Settles O15: the tables after a word are swapped exactly when it completes a valid header. -/
theorem swapAtHeaderAcceptance : Obligations.SwapAtHeaderAcceptance := by
  intro c s w0 w1 w2 hup hc hrx
  refine ⟨_, exec_diWord_of_up hup hc, ?_⟩
  have hkind : headerKind s w2 = judgeHeader w0 w2 := by rw [headerKind, hrx]
  rw [wordOnDi_tables, hkind]
  split
  · exact ⟨swapped_swap _, swapped_swap _, swapped_swap _, swapped_swap _⟩
  · rfl

/-! ### The payload -/

theorem wordOnDi_payload {s : State} {sw : Sweep} {k : Nat} (h : s.link.rx = .payload sw k) (w : Word) :
    wordOnDi w s = payloadWord sw k w s := by simp only [wordOnDi, h]

theorem payloadWord_data {sw : Sweep} (h : sw.kind = .data) (k : Nat) (w : Word) (s : State) :
    payloadWord sw k w s = dataWord sw k w s := by rw [payloadWord, h]

theorem payloadWord_enum {sw : Sweep} (h : sw.kind = .enum) (k : Nat) (w : Word) (s : State) :
    payloadWord sw k w s = enumWord sw k w s := by rw [payloadWord, h]

theorem inFlight_of_payload {r : Rx} {sw : Sweep} {k : Nat} (h : r = .payload sw k) : r.inFlight = true := by rw [h]; rfl

/-- Settles O17: by the entry that covers the position, if any, and by its take flag. -/
theorem dataWordMatched : Obligations.DataWordMatched := by
  intro s sw k w hup hrx hkind
  refine ⟨sw.afterPayload k, rfl, ?_⟩
  have hfly := inFlight_of_payload hrx
  rw [exec_diWord_of_up hup rfl, wordOnDi_payload hrx, payloadWord_data hkind]
  unfold dataWord coveringEntry
  cases sw.map.find? fun e => e.covers k with
  | none => exact congrArg _ (onLink_forward hfly w w _)
  | some e =>
    refine congrArg _ ?_
    simp only
    cases e.take with
    | true => rfl
    | false => exact onLink_forward (s := { s with levels := stageChannel (e.first + (k - e.start)) w s.levels }) hfly w w _

/-- The address sent on by an ENUM sweep: one more, and 255 from 254 on (R30). -/
theorem enumNext_toNat (a : Byte) : (enumNext a).toNat = if a.toNat ≤ 253 then a.toNat + 1 else 255 := by
  unfold enumNext
  split
  · show (a.toNat + 1) % 256 = a.toNat + 1
    omega
  · rfl

/-- Settles O18: the word is rewritten on the way and kept as received; one word of payload and no parcel bring the
TRAILER. -/
theorem enumWordRewritten : Obligations.EnumWordRewritten := by
  intro s sw w hup hrx hkind hp hq
  refine ⟨wordOf (enumNext (loByte w)).toNat, ?_, ?_⟩
  · rw [enumNext_toNat, loByte_toNat]
    rfl
  · rw [exec_diWord_of_up hup rfl, wordOnDi_payload hrx, payloadWord_enum hkind]
    refine congrArg _ ((onLink_forward (inFlight_of_payload hrx) w _ _).trans ?_)
    rw [Sweep.afterPayload, if_neg (by simp [hp]), if_neg (by simp [hq]), ← loByte_eq]

/-! ### The parcels -/

theorem wordOnDi_parcels {s : State} {sw : Sweep} {left : Nat} {pos : ParcelPos} (h : s.link.rx = .parcels sw left pos)
    (w : Word) : wordOnDi w s = parcelWord sw left pos w s := by simp only [wordOnDi, h]

theorem inFlight_of_parcels {r : Rx} {sw : Sweep} {left : Nat} {pos : ParcelPos} (h : r = .parcels sw left pos) :
    r.inFlight = true := by rw [h]; rfl

/-- The standing of a parcel by the upper byte of its address word (R109). -/
theorem filterParcel_hiByte (address : Byte) (w : Word) : filterParcel address (hiByte w) =
    if w.toNat / 256 = 255 then some .broadcast
    else if w.toNat / 256 = address.toNat then some .addressed else none := by
  have hbroad : hiByte w = 255 ↔ w.toNat / 256 = 255 := by rw [← BitVec.toNat_inj, hiByte_toNat]; rfl
  have hself : hiByte w = address ↔ w.toNat / 256 = address.toNat := by rw [← BitVec.toNat_inj, hiByte_toNat]
  simp only [filterParcel, hbroad, hself]

/-- Settles O19: the address word moves the link alone; a body word joins the last parcel of the buffer, if it is stored. -/
theorem parcelAddressAndBodyWords : Obligations.ParcelAddressAndBodyWords := by
  refine ⟨fun s sw left w hup hrx => ?address, fun s sw left n storing w hup hrx => ⟨_, rfl, fun hno => ?skipped,
    fun front p hyes hbuf => ?stored⟩⟩
  all_goals
    have hfly := inFlight_of_parcels hrx
    rw [exec_diWord_of_up hup rfl, wordOnDi_parcels hrx]
    refine congrArg _ ?_
  case address =>
    refine (onLink_forward hfly w w _).trans ?_
    rw [filterParcel_hiByte, hiByte_eq, loByte_eq]
  case skipped =>
    refine Eq.trans ?_ (onLink_forward hfly w w _)
    rcases hno with rfl | hbuf
    · rfl
    · cases storing
      · rfl
      · have hsame : { s with parcels := { s.parcels with buffer := storeBodyWord w s.parcels.buffer } } = s := by
          rw [hbuf, storeBodyWord, ← hbuf]
        simp only [parcelWord, if_true, hsame]
        rfl
  case stored =>
    subst hyes
    rw [← storeBodyWord_concat, ← hbuf]
    exact onLink_forward
      (s := { s with parcels := { s.parcels with buffer := storeBodyWord w s.parcels.buffer } }) hfly w w _

/-- What the storing of a parcel does while its sweep's account is open (R112, R113). -/
theorem storeParcel_of_account {e : Parcels} {a : Account} (h : e.account = some a) (p : Parcel) : storeParcel p e =
    if !a.closed && fitsBuffer e.buffer p.len then ({ e with buffer := e.buffer ++ [p] }, true)
    else ({ e with account := some (a.overflow p.tag p.standing) }, false) := by simp only [storeParcel, h]

/-- The tag that an account keeps is that of its first addressed parcel (R113). -/
theorem overflow_eq (a : Account) (tag : Byte) (st : Standing) : a.overflow tag st =
    { closed := true, unstored := a.unstored + 1
      firstTag := if a.firstTag.isNone ∧ st = .addressed then some tag else a.firstTag } := by
  unfold Account.overflow
  cases a.firstTag <;> simp

theorem arrivingParcel_eq (sw : Sweep) (target tag : Byte) (st : Standing) (w : Word) :
    arrivingParcel sw target tag st w =
      { target := target, tag := tag, kind := BitVec.ofNat 8 (w.toNat / 256), len := w.toNat % 256
        body := [], sweepNum := sw.num, standing := st, executable := false } := by
  simp only [arrivingParcel, hiByte_eq, loByte_toNat]

/-- Settles O20: the parcel is stored by the two conditions on account and buffer, or counted; the receiver's next state
follows. -/
theorem parcelStoredOrUnstored : Obligations.ParcelStoredOrUnstored := by
  intro s sw left target tag std w a hup hrx hacct
  have hfly := inFlight_of_parcels hrx
  refine ⟨!a.closed && fitsBuffer s.parcels.buffer (w.toNat % 256), sw.afterKindLen left (w.toNat % 256), ?_,
    fun b => rfl, ?_⟩
  · simp only [fitsBuffer, Bool.and_eq_true, Bool.not_eq_true', decide_eq_true_eq]
    rfl
  · rw [exec_diWord_of_up hup rfl, wordOnDi_parcels hrx]
    refine congrArg _ ?_
    cases std with
    | none =>
      refine (onLink_forward hfly w w _).trans ?_
      rw [loByte_toNat]
      rfl
    | some st =>
      refine (onLink_forward (s := { s with parcels := (storeParcel (arrivingParcel sw target tag st w) s.parcels).1 })
        hfly w w _).trans ?_
      rw [storeParcel_of_account hacct, loByte_toNat, arrivingParcel_eq]
      simp only
      cases !a.closed && fitsBuffer s.parcels.buffer (w.toNat % 256) with
      | true => rfl
      | false => simp [overflow_eq]

/-! ### Outside a sweep -/

/-- Settles O22: the receiver states in which a word or END does nothing, or one thing. -/
theorem symbolsOutsideSweep : Obligations.SymbolsOutsideSweep := by
  refine ⟨fun s sw c m w hup hrx => ?_, fun s w hup hrx => ?_, fun s hup hrx => ?_, fun s hup hrx => ?_⟩
  · rw [exec_diWord_of_up hup rfl, wordOnDi, hrx]
    rfl
  · rw [exec_diWord_of_up hup rfl, wordOnDi]
    rcases hrx with hrx | hrx <;> rw [hrx]
  · rw [exec_diEnd_of_up hup, endOnDi, hrx]
  · rw [exec_diEnd_of_up hup, endOnDi, hrx]
    rfl

end Sys2Proof.Machine
end

section
/-! SUPPORT. What each command can do to a node, and from it which blocks it can change: the DO queue (R23), the active copies
(R86), the active levels, the address and the sweep number (R41, R42, R56), and block by block. -/

namespace Sys2Proof.Machine

open Sys2Proof Sys2Proof.Safety

/-! ### The effect of a command -/

/-- The rule of a parcel kind; RESTART has an execution of its own (R127). -/
def ruleOf (k : ParcelKind) : ParcelRule :=
  match k with
  | .ping => pingRule
  | .status => statusRule
  | .write => writeRule
  | .read => readRule
  | .commit => commitRule
  | .discard => discardRule
  | .freeze => freezeRule
  | .thaw => thawRule
  | .capture => captureRule
  | .readSnapshot => readSnapshotRule
  | .ackStart => ackStartRule
  | .clearFaults => clearFaultsRule
  | .restart => fun _ s => (s, ⟨.done, []⟩)

theorem exec_parcelCommand {k : ParcelKind} (h : k ≠ .restart) (s : State) :
    exec (parcelCommand k) s = whenUp s (runParcel k (ruleOf k)) := by
  cases k
  case restart => exact absurd rfl h
  all_goals rfl

theorem exec_cycleCompletion (obs : CycleObs) (s : State) : exec (.cycleCompletion obs) s =
    whenUp s fun x => if x.drive.running = true then completeCycle obs x else x := rfl

theorem exec_watchExpiry (s : State) : exec .watchExpiry s = whenUp s fun x =>
    if x.watch.state = .live ∧ x.watch.watchTimer.isSome = true then expireWatch x else x := rfl

theorem exec_holdoverExpiry (s : State) : exec .holdoverExpiry s = whenUp s fun x =>
    if x.watch.state = .holdover ∧ x.watch.holdTimer.isSome = true then expireHoldover x else x := rfl

/-- What a command that begins no reset leaves of a node it acts on: one operation per kind of command. -/
inductive Effect (s : State) : Instr → State → Prop
  | released (l p) : Effect s (.resetRelease l) { s with pins := p }
  | vcc (e p) : Effect s (.vccFltDriveThreshold e) { s with pins := p }
  | ended : Effect s .resetEnd (endReset s)
  | start : Effect s .diStart (startOnDi s)
  | word {c w} (h : diWord c = some w) : Effect s c (wordOnDi w s)
  | done : Effect s .diEnd (endOnDi s)
  | flow (f) : Effect s (.diFlowSymbol f) (onLink (fun l => { l with flowIn := f }) s)
  | again : Effect s .flowSymbolRepeat (repeatFlow s)
  | send : Effect s .doSymbolTime (onLink Link.sendOne s)
  | parcel {k} (h : k ≠ .restart) : Effect s (parcelCommand k) (runParcel k (ruleOf k) s)
  | restart : Effect s .restart (runRestart s)
  | unknown : Effect s .unknownKindParcel (runUnknown s)
  | cycle : Effect s .cycleStart (startCycle s)
  | complete (obs) : Effect s (.cycleCompletion obs) (completeCycle obs s)
  | sample (m n) : Effect s (.thermalSample m n) (sampleTemperature m n s)
  | watch : Effect s .watchExpiry (expireWatch s)
  | hold : Effect s .holdoverExpiry (expireHoldover s)
  | transmit : Effect s .transmissionStart (startTransmission s)
  | sent : Effect s .transmissionCompletion (completeTransmission s)
  | riStart : Effect s .riMessageStart (startOnRi s)
  | riEnd (ws) : Effect s (.riMessageReceived ws) (endOnRi ws s)

theorem whenUp_effect {c : Instr} {s t : State} {f : State → State} (he : whenUp s f = .next t)
    (h : Effect s c (f s)) : t = s ∨ Effect s c t := (whenUp_cases he).imp_right fun ⟨_, e⟩ => e ▸ h

theorem whenUp_effect_if {c : Instr} {s t : State} {p : State → Prop} [DecidablePred p] {f : State → State}
    (he : whenUp s (fun x => if p x then f x else x) = .next t) (h : Effect s c (f s)) : t = s ∨ Effect s c t := by
  rcases whenUp_cases he with rfl | ⟨_, rfl⟩
  · exact .inl rfl
  · split
    · exact .inr h
    · exact .inl rfl

theorem releaseLines_effect (l : ResetLine) (p : Pins) (s : State) : Effect s (.resetRelease l) (releaseLines p s) := by
  unfold releaseLines
  split <;> exact .released l _

/-- A command that begins no reset leaves the node as it is or has its effect. -/
theorem exec_effect {c : Instr} {s t : State} (he : exec c s = .next t) (hr : ¬ beginsReset c s) :
    t = s ∨ Effect s c t := by
  cases c
  case powerOnReset cause =>
    cases cause with
    | rstnLow ns =>
      rw [exec_powerOnReset_pulse (not_le.mp hr)] at he
      cases he
      exact .inl rfl
    | vccLow => exact absurd trivial hr
  case resetEnd =>
    cases he
    split
    · exact .inr .ended
    · exact .inl rfl
  case resetRelease line => cases line <;> cases he <;> exact .inr (releaseLines_effect _ _ s)
  case vccFltDriveThreshold edge =>
    cases edge with
    | falling =>
      rw [exec_vccFalling_low hr] at he
      cases he
      exact .inr (.vcc _ _)
    | rising =>
      cases he
      split
      · exact .inr (.vcc _ _)
      · exact .inl rfl
  case diStart => exact whenUp_effect he .start
  case diHeaderWord w | diPayloadWord w | diParcelWord w | diTrailerWord w | diExtraWord w | diDiscardedWord w =>
    exact whenUp_effect he (.word rfl)
  case diEnd => exact whenUp_effect he .done
  case diFlowSymbol f => exact whenUp_effect he (.flow f)
  case flowSymbolRepeat => exact whenUp_effect he .again
  case doSymbolTime => exact whenUp_effect he .send
  case ping => exact whenUp_effect he (.parcel (k := .ping) nofun)
  case status => exact whenUp_effect he (.parcel (k := .status) nofun)
  case write => exact whenUp_effect he (.parcel (k := .write) nofun)
  case read => exact whenUp_effect he (.parcel (k := .read) nofun)
  case commit => exact whenUp_effect he (.parcel (k := .commit) nofun)
  case discard => exact whenUp_effect he (.parcel (k := .discard) nofun)
  case freeze => exact whenUp_effect he (.parcel (k := .freeze) nofun)
  case thaw => exact whenUp_effect he (.parcel (k := .thaw) nofun)
  case capture => exact whenUp_effect he (.parcel (k := .capture) nofun)
  case readSnapshot => exact whenUp_effect he (.parcel (k := .readSnapshot) nofun)
  case ackStart => exact whenUp_effect he (.parcel (k := .ackStart) nofun)
  case clearFaults => exact whenUp_effect he (.parcel (k := .clearFaults) nofun)
  case restart => exact whenUp_effect he .restart
  case unknownKindParcel => exact whenUp_effect he .unknown
  case cycleStart =>
    rw [exec_cycleStart] at he
    rcases whenUp_cases he with rfl | ⟨_, rfl⟩
    · exact .inl rfl
    · split
      · exact .inl rfl
      · exact .inr .cycle
  case cycleCompletion obs => exact whenUp_effect_if ((exec_cycleCompletion obs s).symm.trans he) (.complete obs)
  case thermalSample m n => exact whenUp_effect he (.sample m n)
  case watchExpiry => exact whenUp_effect_if ((exec_watchExpiry s).symm.trans he) .watch
  case holdoverExpiry => exact whenUp_effect_if ((exec_holdoverExpiry s).symm.trans he) .hold
  case transmissionStart => exact whenUp_effect he .transmit
  case transmissionCompletion => exact whenUp_effect he .sent
  case riMessageStart => exact whenUp_effect he .riStart
  case riMessageReceived ws => exact whenUp_effect he (.riEnd ws)

theorem Effect.of_diStart {s t : State} (h : Effect s .diStart t) : t = startOnDi s := by
  generalize hc : Instr.diStart = c at h
  cases h
  case start => rfl
  case word h => subst hc; cases h
  case parcel k _ => cases k <;> cases hc
  all_goals cases hc

theorem Effect.of_diEnd {s t : State} (h : Effect s .diEnd t) : t = endOnDi s := by
  generalize hc : Instr.diEnd = c at h
  cases h
  case done => rfl
  case word h => subst hc; cases h
  case parcel k _ => cases k <;> cases hc
  all_goals cases hc

theorem Effect.of_restart {s t : State} (h : Effect s .restart t) : t = runRestart s := by
  generalize hc : Instr.restart = c at h
  cases h
  case restart => rfl
  case word h => subst hc; cases h
  case parcel k hk => cases k <;> cases hc; exact absurd rfl hk
  all_goals cases hc

/-! ### What every parcel rule leaves alone -/

theorem ruleOf_link (k : ParcelKind) (p : Parcel) (s : State) : (ruleOf k p s).1.link = s.link := by
  cases k <;> simp [ruleOf]

theorem ruleOf_levels (k : ParcelKind) (p : Parcel) (s : State) : (ruleOf k p s).1.levels = s.levels := by
  cases k <;> simp [ruleOf]

theorem runParcel_ruleOf_link (k : ParcelKind) (s : State) : (runParcel k (ruleOf k) s).link = s.link :=
  runParcel_link k _ (ruleOf_link k) s

theorem runParcel_ruleOf_levels (k : ParcelKind) (s : State) : (runParcel k (ruleOf k) s).levels = s.levels :=
  runParcel_levels k _ (ruleOf_levels k) s

/-! ### The DO queue (R23) -/

theorem runRestart_grows (s : State) : s.link.Grows (runRestart s).link :=
  runRestart_frame (Inv := fun x => s.link.Grows x.link) (.refl _) (fun _ _ _ _ => .refl _) (fun _ h => h)
    (fun _ _ _ _ _ h => h) (fun _ h => by simpa using h) (by
      have hlink : (flushQueue s).link = s.link := (flushQueue_same s).link
      simp only [restartBlocks, hlink]
      exact ⟨⟨[], by simp⟩, le_max_right _ _, fun _ => rfl⟩)

/-- Every effect but the sending of a symbol, and but for the check that START sets anew, lets the DO queue grow alone. -/
theorem Effect.grows {c : Instr} {s t : State} (h : Effect s c t) (hsend : c ≠ .doSymbolTime) (hstart : c ≠ .diStart) :
    s.link.Grows t.link := by
  cases h
  case start => exact absurd rfl hstart
  case send => exact absurd rfl hsend
  case ended => exact push_grows _ _
  case word w _ => exact (linkKeeps_grows s.link).wordOnDi w (.refl _)
  case done => exact endOnDi_grows s
  case again => exact (linkKeeps_grows s.link).repeatFlow (.refl _)
  case parcel k _ => rw [runParcel_ruleOf_link]; exact .refl _
  case restart => exact runRestart_grows s
  case transmit => exact (linkKeeps_grows s.link).startTransmission (.refl _)
  case riEnd ws => exact (linkKeeps_grows s.link).endOnRi ws (.refl _)
  case flow => exact ⟨⟨[], by simp [onLink]⟩, le_max_right _ _, fun _ => rfl⟩
  case unknown => rw [runUnknown_link]; exact .refl _
  case complete => rw [completeCycle_link]; exact .refl _
  case sample => rw [sampleTemperature_link]; exact .refl _
  case watch => rw [expireWatch_link]; exact .refl _
  case hold => rw [expireHoldover_link]; exact .refl _
  case riStart => rw [startOnRi_link]; exact .refl _
  case released | vcc | cycle | sent => exact .refl _

/-- A queue of 16 symbols takes none. -/
theorem Link.Grows.full {a b : Link} (h : a.Grows b) (hfull : 16 ≤ a.doQueue.length) : b.doQueue = a.doQueue := by
  obtain ⟨⟨xs, hxs⟩, hbound, -⟩ := h
  rw [hxs, List.length_append] at hbound
  rw [hxs, List.eq_nil_of_length_eq_zero (l := xs) (by omega), List.append_nil]

theorem Link.Grows.joins {a b : Link} (h : a.Grows b) : ∃ xs, b.doQueue = a.doQueue ++ xs ∧
    (16 ≤ a.doQueue.length → xs = [] ∧ b.outCrc = a.outCrc) := by
  obtain ⟨xs, hxs⟩ := h.queue
  refine ⟨xs, hxs, fun hfull => ⟨?_, h.check hfull⟩⟩
  have hsame := h.full hfull
  rwa [hxs, List.append_right_eq_self] at hsame

/-- A word dropped while a sweep is in flight leaves the framing not exact (R23). -/
theorem sentOn_full {l : Link} (h : 16 ≤ l.doQueue.length) (w : Word) : sentOn l w = { l with framingExact := false } :=
  if_neg (by omega)

theorem onLink_forward_full {s : State} (hfly : s.link.rx.inFlight = true) (h : 16 ≤ s.link.doQueue.length) (a b : Word)
    (r : Rx) : (onLink (fun l => ((l.feedIn a).sendWord b).enter r) s).link.framingExact = false := by
  rw [onLink_forward hfly, sentOn_full h]

/-- The receiver goes on as ever when it drops a word that it should send on (R23). -/
theorem wordOnDi_full {s : State} (hon : SendsOn s.link.rx) (h : 16 ≤ s.link.doQueue.length) (w : Word) :
    (wordOnDi w s).link.framingExact = false := by
  cases hrx : s.link.rx <;> rw [hrx] at hon <;> try exact hon.elim
  case header got =>
    have hfly := inFlight_of_header hrx
    rw [wordOnDi_header hrx]
    match got with
    | [] => exact onLink_forward_full hfly h w w _
    | [_] => exact onLink_forward_full hfly h w w _
    | w0 :: w1 :: more =>
      simp only [headerWord]
      split
      · simp only [acceptHeader, feed_send_enter hfly, sentOn_full h]
      · rw [rejectHeader_eq hfly, sentOn_full h]
        rfl
  case payload sw k =>
    have hfly := inFlight_of_payload hrx
    rw [wordOnDi_payload hrx]
    cases hk : sw.kind with
    | data =>
      rw [payloadWord_data hk]
      unfold dataWord coveringEntry
      cases he : sw.map.find? fun e => e.covers k with
      | none => exact onLink_forward_full hfly h w w _
      | some e =>
        simp only [hon hk e he]
        exact onLink_forward_full (s := { s with levels := _ }) hfly h w w _
    | enum => rw [payloadWord_enum hk]; exact onLink_forward_full hfly h w _ _
    | latch | manage =>
      rw [payloadWord, hk]
      exact onLink_forward_full hfly h w w _
  case parcels sw left pos =>
    have hfly := inFlight_of_parcels hrx
    rw [wordOnDi_parcels hrx]
    unfold parcelWord
    split
    · exact onLink_forward_full hfly h w w _
    · split
      · exact onLink_forward_full hfly h w w _
      · exact onLink_forward_full (s := { s with parcels := _ }) hfly h w w _
    · split
      · exact onLink_forward_full (s := { s with parcels := _ }) hfly h w w _
      · exact onLink_forward_full hfly h w w _

/-- A closing of which a symbol is dropped leaves the framing not exact (R23). -/
theorem close_full {l : Link} (hfly : l.rx.inFlight = true) (h : 16 < l.doQueue.length + 4) (m : Word) (f : Flow) :
    (l.close m f).framingExact = false := by
  rw [close_closedWith hfly]
  show (l.framingExact && decide (l.doQueue.length + 4 ≤ 16)) = false
  rw [decide_eq_false (by omega), Bool.and_false]

theorem goodSweepEnd_framing (sw : Sweep) (s : State) : (goodSweepEnd sw s).link.framingExact = s.link.framingExact := by
  rw [goodSweepEnd_link]
  unfold takeAddress
  split <;> rfl

theorem endOnDi_full {s : State} (hfly : s.link.rx.inFlight = true) (h : 16 < s.link.doQueue.length + 4) :
    (endOnDi s).link.framingExact = false := by
  have hearly : (earlyClose s).link.framingExact = false := close_full hfly h poisonMark s.asked
  unfold endOnDi
  split
  case h_1 hrx => rw [hrx] at hfly; cases hfly
  case h_2 hrx => rw [hrx] at hfly; cases hfly
  case h_3 => exact hearly
  case h_7 sw c m _ =>
    unfold closeSweep
    split
    · rw [goodSweepEnd_framing]; exact close_full hfly h cleanMark s.asked
    · rw [badSweepEnd_link]; exact hearly
  all_goals rw [badSweepEnd_link]; exact hearly

/-- Settles O10: the oldest symbol leaves at a symbol time; every other effect lets the queue grow, and what is dropped from
a full queue in a sweep spoils its framing. -/
theorem doQueueSendsOldestAndDropsWhenFull : Obligations.DoQueueSendsOldestAndDropsWhenFull := by
  refine ⟨fun s x rest hup hq => ?oldest, fun s hup hq => ?idle, fun c s t he hr hsend => ?grows,
    fun s got w hup hrx hgot hfull => ?header, fun c s t w hup hc hon hfull he => ?word,
    fun s t hup hw hs hfull he => ?closing⟩
  case oldest =>
    refine (whenUp_of_up hup _).trans (congrArg _ ?_)
    simp only [onLink, Link.sendOne, hq]
  case idle =>
    refine (whenUp_of_up hup _).trans (congrArg _ ?_)
    simp only [onLink, Link.sendOne, hq]
  case grows =>
    rcases exec_effect he hr with rfl | heff
    · exact ⟨[], by simp, fun _ => ⟨rfl, fun _ => rfl⟩⟩
    · by_cases hstart : c = .diStart
      · subst hstart
        have hgrows : s.link.Grows { t.link with outCrc := s.link.outCrc } := by
          rw [heff.of_diStart]
          exact startOnDi_grows s
        obtain ⟨xs, hxs, hnone⟩ := hgrows.joins
        exact ⟨xs, hxs, fun hfull => ⟨(hnone hfull).1, fun hne => absurd rfl hne⟩⟩
      · obtain ⟨xs, hxs, hnone⟩ := (heff.grows hsend hstart).joins
        exact ⟨xs, hxs, fun hfull => (hnone hfull).imp_right fun h _ => h⟩
  case header =>
    rw [exec_diHeaderWord_of_up hup, wordOnDi_header hrx, headerWord_early hgot, onLink_forward (inFlight_of_header hrx),
      sentOn_full hfull]
  case word =>
    rw [exec_diWord_of_up hup hc] at he
    cases he
    exact wordOnDi_full hon hfull w
  case closing =>
    rw [exec_diEnd_of_up hup] at he
    cases he
    refine endOnDi_full ?_ hfull
    rw [← Bool.not_eq_false, Rx.inFlight_eq_false_iff]
    exact not_or.mpr ⟨hw, hs⟩

/-! ### Active copies and generations (R86, R102) -/

/-- Active copy and generation of each section. -/
def Tables.inForce (t : Tables) : (c : SecCode) → Vector Word c.size × Word := fun c => ((t.sec c).active, (t.sec c).gen)

theorem inForce_change {f : (n : Nat) → Section n → Section n}
    (hf : ∀ n x, (f n x).active = x.active ∧ (f n x).gen = x.gen) (t : Tables) (c : SecCode) :
    (t.change c f).inForce = t.inForce := by
  funext d
  unfold Tables.inForce
  rw [sec_change]
  split
  · rw [(hf _ _).1, (hf _ _).2]
  · rfl

theorem inForce_changeEach {f : (n : Nat) → Section n → Section n}
    (hf : ∀ n x, (f n x).active = x.active ∧ (f n x).gen = x.gen) (t : Tables) (cs : List SecCode) :
    (t.changeEach cs f).inForce = t.inForce := by
  unfold Tables.changeEach
  induction cs generalizing t with
  | nil => rfl
  | cons c cs ih => rw [List.foldl_cons, ih, inForce_change hf]

theorem inForce_write (t : Tables) (w0 : Word) (data : List Word) : (t.write w0 data).1.inForce = t.inForce := by
  unfold Tables.write
  dsimp only
  split
  · rfl
  · split
    · rfl
    · split
      · rfl
      · exact inForce_change (f := fun _ x => x.store (offsetOf w0) data) (fun _ _ => ⟨rfl, rfl⟩) t _

theorem inForce_commit (t : Tables) (cs : List SecCode) : (t.commit cs).1.inForce = t.inForce := by
  unfold Tables.commit
  split
  · rfl
  · split
    · rfl
    · exact inForce_changeEach (f := fun _ x => x.accept) (fun _ _ => ⟨rfl, rfl⟩) t _

theorem inForce_discard (t : Tables) (cs : List SecCode) : (t.discard cs).1.inForce = t.inForce := by
  unfold Tables.discard
  split
  · rfl
  · exact inForce_changeEach (f := fun _ x => x.revert) (fun _ _ => ⟨rfl, rfl⟩) t _

theorem inForce_freeze (t : Tables) (cs : List SecCode) : (t.freeze cs).1.inForce = t.inForce :=
  inForce_changeEach (f := fun _ x => x.freeze) (fun _ _ => ⟨rfl, rfl⟩) t _

theorem inForce_thaw (t : Tables) (w0 g : Word) : (t.thaw w0 g).1.inForce = t.inForce := by
  unfold Tables.thaw
  dsimp only
  split
  · rfl
  · split
    · exact inForce_change (f := fun _ x => x.thaw) (fun _ _ => ⟨rfl, rfl⟩) t _
    · rfl

theorem inForce_cancel (t : Tables) : t.cancel.inForce = t.inForce := by
  funext d
  unfold Tables.inForce
  rw [Tables.cancel, sec_changeAll]
  rfl

theorem ruleOf_inForce (k : ParcelKind) (p : Parcel) (s : State) :
    (ruleOf k p s).1.tables.inForce = s.tables.inForce := by
  cases k
  case write => exact inForce_write _ _ _
  case commit => exact inForce_commit _ _
  case discard => exact inForce_discard _ _
  case freeze => exact inForce_freeze _ _
  case thaw => exact inForce_thaw _ _ _
  all_goals simp [ruleOf]

/-- Only a word that completes a valid header can change an active copy or a generation (R102). -/
theorem Effect.inForce {c : Instr} {s t : State} (h : Effect s c t) : t.tables.inForce = s.tables.inForce ∨
    (∃ w k, diWord c = some w ∧ headerKind s w = some k) ∧ t.tables = s.tables.swap := by
  cases h
  case word w hw =>
    rw [wordOnDi_tables]
    cases hk : headerKind s w with
    | none => exact .inl rfl
    | some k => exact .inr ⟨⟨w, k, hw, hk⟩, rfl⟩
  case parcel k _ =>
    exact .inl (runParcel_frame (fun x => x.tables.inForce) k (ruleOf k) s (fun _ _ => rfl) (fun _ _ => rfl)
      (fun _ => rfl) (ruleOf_inForce k))
  case restart =>
    rcases runRestart_tables s with e | e <;> rw [e]
    · exact .inl rfl
    · exact .inl (inForce_cancel _)
  all_goals left; simp [onLink]

/-- Settles O26: active copies and generations are as before every effect but the swap. -/
theorem activeCopiesChangeOnlyBySwap : Obligations.ActiveCopiesChangeOnlyBySwap := by
  intro c s t he hr
  have hcases : t.tables.inForce = s.tables.inForce ∨
      (∃ w k, diWord c = some w ∧ headerKind s w = some k) ∧ t.tables = s.tables.swap := by
    rcases exec_effect he hr with rfl | h
    · exact .inl rfl
    · exact h.inForce
  rcases hcases with h | ⟨hword, e⟩
  · have hsec : ∀ d, (t.tables.sec d).active = (s.tables.sec d).active ∧ (t.tables.sec d).gen = (s.tables.sec d).gen :=
      fun d => Prod.mk.inj (congrFun h d)
    obtain ⟨⟨hma, hmg⟩, ⟨hca, hcg⟩, ⟨hda, hdg⟩, hpa, hpg⟩ :=
      And.intro (hsec .map) (And.intro (hsec .curves) (And.intro (hsec .drive) (hsec .policy)))
    exact .inl ⟨hma, hmg, hca, hcg, hda, hdg, hpa, hpg⟩
  · rw [e]
    exact .inr ⟨hword, swapped_swap _, swapped_swap _, swapped_swap _, swapped_swap _⟩

/-! ### Active levels, address and sweep number (R41, R42, R56) -/

/-- The active level of each channel. -/
def activeLevels (v : Vector LevelCh 16) : Fin 16 → Word := fun ch => v[ch].active

theorem activeLevels_eachChannel {f : LevelCh → LevelCh} (hf : ∀ l, (f l).active = l.active) (v : Vector LevelCh 16) :
    activeLevels (eachChannel f v) = activeLevels v := by
  funext ch
  simp [activeLevels, eachChannel, hf]

theorem activeLevels_badEnd (k : SweepKind) (v : Vector LevelCh 16) :
    activeLevels (levelsAtBadEnd k v) = activeLevels v := by
  cases k
  case data => exact activeLevels_eachChannel (f := LevelCh.unstage) (fun _ => rfl) v
  all_goals rfl

theorem activeLevels_stage (c : Nat) (w : Word) (v : Vector LevelCh 16) :
    activeLevels (stageChannel c w v) = activeLevels v := by
  funext ch
  simp only [activeLevels, stageChannel, Fin.getElem_fin, Vector.getElem_ofFn]
  split <;> rfl

theorem startOnDi_activeLevels (s : State) : activeLevels (startOnDi s).levels = activeLevels s.levels :=
  startOnDi_inv (Inv := fun x => activeLevels x.levels = activeLevels s.levels) (fun _ => by simp [onLink])
    (fun _ _ => by simp [onLink]) fun sw _ => by simp [onLink, activeLevels_badEnd]

theorem wordOnDi_activeLevels (w : Word) (s : State) : activeLevels (wordOnDi w s).levels = activeLevels s.levels := by
  unfold wordOnDi
  split
  case h_3 got _ =>
    unfold headerWord
    split
    · rfl
    · rfl
    · split
      · unfold acceptHeader
        dsimp only
        split
        · exact activeLevels_eachChannel (f := LevelCh.unstage) (fun _ => rfl) s.levels
        · rfl
      · rfl
  case h_4 sw k _ =>
    unfold payloadWord
    split
    · unfold dataWord
      dsimp only
      split
      · rfl
      · split <;> exact activeLevels_stage _ _ _
    all_goals rfl
  case h_5 => rw [parcelWord_levels]
  case h_6 => rw [trailerWord_levels]
  all_goals rfl

/-- What only a good sweep end, a RESTART and a reset can change: active levels, address, last good sweep number. -/
def inUse (s : State) : (Fin 16 → Word) × Byte × Word := (activeLevels s.levels, s.link.address, s.link.lastGood)

theorem inUse_of {s t : State} (hlevels : activeLevels t.levels = activeLevels s.levels)
    (hlink : t.link.address = s.link.address ∧ t.link.lastGood = s.link.lastGood) : inUse t = inUse s := by
  rw [inUse, hlevels, hlink.1, hlink.2]
  rfl

theorem runRestart_station (s : State) :
    (runRestart s).link.address = s.link.address ∧ (runRestart s).link.lastGood = s.link.lastGood :=
  runRestart_frame (Inv := fun x => x.link.address = s.link.address ∧ x.link.lastGood = s.link.lastGood) ⟨rfl, rfl⟩
    (fun _ _ _ _ => ⟨rfl, rfl⟩) (fun _ h => h) (fun _ _ _ _ _ h => h) (fun _ h => by simpa using h)
    (by simp [restartBlocks])

theorem goodSweepEnd_levels (sw : Sweep) (s : State) :
    (goodSweepEnd sw s).levels = levelsAtGoodEnd sw.kind sw.hold s.levels := by
  refine goodSweepEnd_inv (Inv := fun x => x.levels = levelsAtGoodEnd sw.kind sw.hold s.levels) ?_
    (fun _ _ h => by simpa using h) (fun _ _ h => h) fun _ h => by simpa using h
  unfold goodEffects
  dsimp only
  split
  · rw [refreshLink_levels]
  · rfl

/-- A good sweep end as the receiver finds it at END (R34). -/
structure EndsGood (s : State) (sw : Sweep) : Prop where
  rx : s.link.rx = .waitEnd sw true true
  framing : s.link.framingExact = true
  void : s.link.voidMark = false

/-- END leaves active levels, address and sweep number alone or ends a sweep good. -/
theorem endOnDi_inUse (s : State) : inUse (endOnDi s) = inUse s ∨ ∃ sw, EndsGood s sw ∧
    endOnDi s = goodSweepEnd sw (onLink (fun l => (l.close cleanMark s.asked).enter .waitStart) s) := by
  by_cases hgood : ∃ sw, EndsGood s sw
  · obtain ⟨sw, hrx, hframing, hvoid⟩ := hgood
    refine .inr ⟨sw, ⟨hrx, hframing, hvoid⟩, ?_⟩
    rw [endOnDi, hrx]
    exact if_pos (by simp [goodVerdict, hframing, hvoid])
  · have hclose : ∀ m, inUse (onLink (fun l => (l.close m s.asked).enter .waitStart) s) = inUse s := fun m =>
      inUse_of rfl (by simp [onLink, Link.enter])
    exact .inl (endOnDi_inv (Inv := fun x => inUse x = inUse s) rfl (fun _ => rfl) (fun _ _ => hclose _)
      (fun sw _ => inUse_of (activeLevels_badEnd sw.kind s.levels) (by simp [earlyClose, onLink, Link.enter]))
      fun sw hrx hframing hvoid => absurd ⟨sw, hrx, hframing, hvoid⟩ hgood)

/-- Every effect but a RESTART and a good sweep end leaves active levels, address and sweep number alone. -/
theorem Effect.inUse {c : Instr} {s t : State} (h : Effect s c t) (hc : c ≠ .restart) (hend : c ≠ .diEnd) :
    Machine.inUse t = Machine.inUse s := by
  cases h
  case restart => exact absurd rfl hc
  case done => exact absurd rfl hend
  case start => exact inUse_of (startOnDi_activeLevels s) (startOnDi_station s)
  case word w _ => exact inUse_of (wordOnDi_activeLevels w s) (wordOnDi_station w s)
  case again => exact inUse_of (by simp) (repeatFlow_station s)
  case send => exact inUse_of rfl (by unfold onLink Link.sendOne; dsimp only; split <;> exact ⟨rfl, rfl⟩)
  case parcel k _ => exact inUse_of (by rw [runParcel_ruleOf_levels]) (by simp [runParcel_ruleOf_link])
  case transmit => exact inUse_of (by simp) (startTransmission_station s)
  case riEnd ws => exact inUse_of (by simp) (endOnRi_station ws s)
  case ended => exact inUse_of (by simp) (by simp [endReset, onLink, startCycle])
  all_goals exact inUse_of (by simp [onLink]) (by simp [onLink])

/-- Settles O27: active levels, address and sweep number are as before every effect but a RESTART, which leaves the last
two, and a good sweep end, which changes them by the kind of the sweep. -/
theorem levelsChangeOnlyAtSweepEnds : Obligations.LevelsChangeOnlyAtSweepEnds := by
  intro c s t he hr
  have hkept : inUse t = inUse s → (∀ ch : Fin 16, t.levels[ch].active = s.levels[ch].active) ∧
      t.link.address = s.link.address ∧ t.link.lastGood = s.link.lastGood := fun h => by
    obtain ⟨hlevels, hlink⟩ := Prod.mk.inj h
    exact ⟨fun ch => congrFun hlevels ch, Prod.mk.inj hlink⟩
  rcases exec_effect he hr with rfl | heff
  · exact .inl (hkept rfl)
  · by_cases hrestart : c = .restart
    · subst hrestart
      rw [heff.of_restart]
      exact .inr (.inl ⟨rfl, runRestart_station s⟩)
    · by_cases hend : c = .diEnd
      · subst hend
        have et := heff.of_diEnd
        subst et
        rcases endOnDi_inUse s with h | ⟨sw, hgood, e⟩
        · exact .inl (hkept h)
        · refine .inr (.inr ⟨rfl, sw, hgood.rx, hgood.framing, hgood.void, ?_⟩)
          rw [e, goodSweepEnd_link, goodSweepEnd_levels]
          refine ⟨rfl, fun hk => ?_, fun hk => ?_⟩
          · cases hkind : sw.kind <;> simp_all [takeAddress, onLink]
          · rcases hk with hk | hk <;> rw [hk] <;> rfl
      · exact .inl (hkept (heff.inUse hrestart hend))

end Sys2Proof.Machine
end

section
/-! SUPPORT. Block by block, which commands can change it (00_scope.md, Block diagram). -/

namespace Sys2Proof.Machine

open Sys2Proof Sys2Proof.Safety

/-! ### The return lane -/

/-- The stores of the return lane that no message of this node is in: pass buffer, RI, RO and the counter. -/
def Ret.stores (r : Ret) : List (List Word) × RiState × Option (List Word) × Nat := (r.pass, r.ri, r.ro, r.passCount)

theorem SameButNotices.stores {t s : State} (h : SameButNotices t s) : t.ret.stores = s.ret.stores := by
  simp only [Ret.stores, h.pass, h.ri, h.ro, h.passCount]

@[simp] theorem joinNotices_stores (s : State) : (joinNotices s).ret.stores = s.ret.stores := (joinNotices_same s).stores

theorem goodSweepEnd_stores (sw : Sweep) (s : State) : (goodSweepEnd sw s).ret.stores = s.ret.stores := by
  refine goodSweepEnd_inv (Inv := fun x => x.ret.stores = s.ret.stores) ?_
    (fun a x h => (queueOverflowReply_same a x).stores.trans h) (fun _ _ h => h) fun _ h => by simpa using h
  rw [goodEffects_ret]
  split <;> rfl

@[simp] theorem endOnDi_stores (s : State) : (endOnDi s).ret.stores = s.ret.stores :=
  endOnDi_inv (Inv := fun x => x.ret.stores = s.ret.stores) rfl (fun _ => rfl) (fun _ _ => rfl) (fun _ _ => rfl)
    fun sw _ _ _ => goodSweepEnd_stores sw _

@[simp] theorem completeCycle_stores (obs : CycleObs) (s : State) : (completeCycle obs s).ret.stores = s.ret.stores := by
  rw [completeCycle_eq]
  split
  · rw [joinNotices_stores]; rfl
  · rfl

@[simp] theorem sampleTemperature_stores (m : Int) (n : Nat) (s : State) :
    (sampleTemperature m n s).ret.stores = s.ret.stores := by
  rw [sampleTemperature_eq]
  split
  · rfl
  · rw [joinNotices_stores]; rfl

@[simp] theorem expireWatch_stores (s : State) : (expireWatch s).ret.stores = s.ret.stores := by
  unfold expireWatch
  dsimp only
  split
  · rw [joinNotices_stores]; rfl
  · rfl

@[simp] theorem expireHoldover_stores (s : State) : (expireHoldover s).ret.stores = s.ret.stores := joinNotices_stores _

/-- The stores and the previous link state, which a RESTART leaves alone (R148). -/
theorem runRestart_lane (s : State) :
    (runRestart s).ret.stores = s.ret.stores ∧ (runRestart s).ret.prevLink = s.ret.prevLink :=
  runRestart_frame (Inv := fun x => x.ret.stores = s.ret.stores ∧ x.ret.prevLink = s.ret.prevLink) ⟨rfl, rfl⟩
    (fun _ _ _ _ => ⟨rfl, rfl⟩) (fun _ h => h) (fun _ _ _ _ _ h => h) (fun _ h => by simpa using h)
    (by rw [restartBlocks_ret]; exact ⟨(flushQueue_same s).stores, (flushQueue_same s).prevLink⟩)

/-- What the return lane holds but for the local reply queue and the LOST mark. -/
def Ret.behind (r : Ret) : Ret := { r with queue := [], lost := false }

theorem ruleOf_ret (k : ParcelKind) (p : Parcel) (s : State) : (ruleOf k p s).1.ret = s.ret := by
  cases k <;> simp [ruleOf]

/-- A parcel's execution moves the local reply queue and the LOST mark of the lane alone (R118 to R121). -/
theorem runParcel_ruleOf_behind (k : ParcelKind) (s : State) :
    (runParcel k (ruleOf k) s).ret.behind = s.ret.behind :=
  runParcel_frame (fun x => x.ret.behind) k (ruleOf k) s (fun _ _ => rfl) (fun _ _ => rfl) (fun _ => rfl)
    fun p x => congrArg Ret.behind (ruleOf_ret k p x)

theorem runUnknown_behind (s : State) : (runUnknown s).ret.behind = s.ret.behind := by
  unfold runUnknown
  dsimp only
  repeat' split
  all_goals rfl

/-- A transmission start leaves RI and the previous link state alone (R144 to R146). -/
theorem startTransmission_ri (s : State) :
    (startTransmission s).ret.ri = s.ret.ri ∧ (startTransmission s).ret.prevLink = s.ret.prevLink := by
  unfold startTransmission
  split
  · exact ⟨rfl, rfl⟩
  · split <;> simp

/-- The end of a message on RI moves pass buffer, RI and the LOST mark of the lane alone (R141, R142). -/
theorem endOnRi_lane (ws : List Word) (s : State) : (endOnRi ws s).ret =
    { s.ret with pass := (endOnRi ws s).ret.pass, ri := (endOnRi ws s).ret.ri, lost := (endOnRi ws s).ret.lost } := by
  unfold endOnRi
  split
  · rfl
  · rfl
  · split
    · rw [sendFlowChange_ret]
    · rfl

theorem completeCycle_prevLink (obs : CycleObs) (s : State) : (completeCycle obs s).ret.prevLink = s.ret.prevLink := by
  rw [completeCycle_eq]
  split
  · rw [joinNotices_prevLink]; rfl
  · rfl

theorem sampleTemperature_prevLink (m : Int) (n : Nat) (s : State) :
    (sampleTemperature m n s).ret.prevLink = s.ret.prevLink := by
  rw [sampleTemperature_eq]
  split
  · rfl
  · rw [joinNotices_prevLink]; rfl

/-! ### The diagnostics unit -/

theorem endOnDi_diag (s : State) :
    (endOnDi s).diag.records = s.diag.records ∧ (endOnDi s).diag.latches = s.diag.latches :=
  endOnDi_inv (Inv := fun x => x.diag.records = s.diag.records ∧ x.diag.latches = s.diag.latches) ⟨rfl, rfl⟩
    (fun _ => ⟨rfl, rfl⟩) (fun _ _ => ⟨rfl, rfl⟩) (fun _ _ => ⟨rfl, rfl⟩) fun sw _ _ _ =>
    ⟨goodSweepEnd_records sw _, goodSweepEnd_latches sw _⟩

theorem runRestart_latches (s : State) : (runRestart s).diag.latches = s.diag.latches :=
  runRestart_frame (Inv := fun x => x.diag.latches = s.diag.latches) rfl (fun _ _ _ _ => rfl) (fun _ h => h)
    (fun _ _ _ _ _ h => h) (fun _ h => by simpa using h) (by simp)

theorem expireHoldover_diag (s : State) :
    (expireHoldover s).diag.records = s.diag.records ∧ (expireHoldover s).diag.latches = s.diag.latches :=
  ⟨joinNotices_records _, joinNotices_latches _⟩

theorem ruleOf_changed (k : ParcelKind) (p : Parcel) (s : State) :
    (ruleOf k p s).1.diag.changed = s.diag.changed := by
  cases k <;> simp [ruleOf]

theorem runParcel_ruleOf_changed (k : ParcelKind) (s : State) :
    (runParcel k (ruleOf k) s).diag.changed = s.diag.changed :=
  runParcel_frame (fun x => x.diag.changed) k (ruleOf k) s (fun _ _ => rfl) (fun _ _ => rfl) (fun _ => rfl)
    (ruleOf_changed k)

/-! ### The blocks that one parcel kind changes and the others do not -/

theorem ruleOf_frame (k : ParcelKind) (p : Parcel) (s : State) :
    (ruleOf k p s).1.drive = s.drive ∧ (ruleOf k p s).1.watch = s.watch ∧ (ruleOf k p s).1.pins = s.pins ∧
      (ruleOf k p s).1.freeUses = s.freeUses ∧ (ruleOf k p s).1.pending = s.pending := by
  cases k <;> simp [ruleOf]

theorem ruleOf_monitors {k : ParcelKind} (h : k ≠ .clearFaults) (p : Parcel) (s : State) :
    (ruleOf k p s).1.diag = s.diag ∧ (ruleOf k p s).1.thermal = s.thermal ∧ (ruleOf k p s).1.supply = s.supply := by
  cases k <;> simp_all [ruleOf]

theorem ruleOf_snap {k : ParcelKind} (h : k ≠ .capture) (p : Parcel) (s : State) : (ruleOf k p s).1.snap = s.snap := by
  cases k <;> simp_all [ruleOf]

/-- The kinds whose rule acts on the table store. -/
def ParcelKind.writesTables (k : ParcelKind) : Bool :=
  match k with
  | .write | .commit | .discard | .freeze | .thaw => true
  | .ping | .status | .read | .capture | .readSnapshot | .ackStart | .clearFaults | .restart => false

theorem ruleOf_tables {k : ParcelKind} (h : k.writesTables = false) (p : Parcel) (s : State) :
    (ruleOf k p s).1.tables = s.tables := by
  cases k <;> simp_all [ruleOf, ParcelKind.writesTables]

theorem parcelCommand_writesTables {k : ParcelKind} (h : k.writesTables = true) :
    parcelCommand k ∈ [Instr.write, .commit, .discard, .freeze, .thaw, .restart] := by
  cases k <;> simp_all [ParcelKind.writesTables, parcelCommand]

/-! ### Block by block -/

theorem runParcel_ruleOf_tables (k : ParcelKind) (s : State) : (runParcel k (ruleOf k) s).tables = s.tables ∨
    parcelCommand k ∈ [Instr.write, .commit, .discard, .freeze, .thaw, .restart] := by
  cases hw : k.writesTables with
  | true => exact .inr (parcelCommand_writesTables hw)
  | false => exact .inl (runParcel_tables k _ (ruleOf_tables hw) s)

theorem runParcel_ruleOf_monitors (k : ParcelKind) (s : State) : ((runParcel k (ruleOf k) s).diag = s.diag ∧
    (runParcel k (ruleOf k) s).thermal = s.thermal ∧ (runParcel k (ruleOf k) s).supply = s.supply) ∨
      parcelCommand k = .clearFaults := by
  by_cases hc : k = .clearFaults
  · exact .inr (hc ▸ rfl)
  · exact .inl ⟨runParcel_diag k _ (fun p s => (ruleOf_monitors hc p s).1) s,
      runParcel_thermal k _ (fun p s => (ruleOf_monitors hc p s).2.1) s,
      runParcel_supply k _ (fun p s => (ruleOf_monitors hc p s).2.2) s⟩

theorem runParcel_ruleOf_snap (k : ParcelKind) (s : State) : (runParcel k (ruleOf k) s).snap = s.snap ∨
    parcelCommand k ∈ [Instr.capture, .restart] := by
  by_cases hc : k = .capture
  · exact .inr (hc ▸ by simp [parcelCommand])
  · exact .inl (runParcel_snap k _ (ruleOf_snap hc) s)

/-- Settles O59: the node as it was changes nothing; then effect by effect, by what each operation leaves alone. -/
theorem blocksChangeOnlyByTheirCommands : Obligations.BlocksChangeOnlyByTheirCommands := by
  intro c s t he hr
  rcases exec_effect he hr with rfl | heff
  · simp
  cases heff
  case released l p => simp
  case vcc e p => simp
  case ended => simp
  case start => simp
  case word w hw => simp [hw]
  case done =>
    obtain ⟨hpass, hri, hro, hcount⟩ : _ ∧ _ ∧ _ ∧ _ := by simpa [Ret.stores] using endOnDi_stores s
    simp [endOnDi_diag, hpass, hri, hro, hcount, LetsNoticesJoin]
  case flow f => simp [onLink]
  case again => simp
  case send => simp [onLink]
  case cycle => simp [startCycle]
  case sent => simp [completeTransmission]
  case riStart => simp [startOnRi_ret]
  case riEnd ws => rw [endOnRi_lane]; simp
  case unknown =>
    obtain ⟨hpass, hri, hro, ht, hs, hl, hprev, hcount⟩ : _ ∧ _ ∧ _ ∧ _ ∧ _ ∧ _ ∧ _ ∧ _ := by
      simpa [Ret.behind] using runUnknown_behind s
    simp [hpass, hri, hro, ht, hs, hl, hprev, hcount]
  case restart =>
    obtain ⟨⟨hpass, hri, hro, hcount⟩, hprev⟩ : (_ ∧ _ ∧ _ ∧ _) ∧ _ := by simpa [Ret.stores] using runRestart_lane s
    have hk : ∃ k, Instr.restart = parcelCommand k := ⟨.restart, rfl⟩
    simp [hpass, hri, hro, hcount, hprev, runRestart_latches, LetsNoticesJoin, hk]
  case complete obs =>
    obtain ⟨hpass, hri, hro, hcount⟩ : _ ∧ _ ∧ _ ∧ _ := by simpa [Ret.stores] using completeCycle_stores obs s
    simp [hpass, hri, hro, hcount, completeCycle_prevLink, LetsNoticesJoin]
  case sample m n =>
    obtain ⟨hpass, hri, hro, hcount⟩ : _ ∧ _ ∧ _ ∧ _ := by simpa [Ret.stores] using sampleTemperature_stores m n s
    simp [hpass, hri, hro, hcount, sampleTemperature_prevLink, sampleTemperature_diag, LetsNoticesJoin]
  case watch =>
    obtain ⟨hpass, hri, hro, hcount⟩ : _ ∧ _ ∧ _ ∧ _ := by simpa [Ret.stores] using expireWatch_stores s
    simp [hpass, hri, hro, hcount, expireWatch_diag, LetsNoticesJoin]
  case hold =>
    obtain ⟨hpass, hri, hro, hcount⟩ : _ ∧ _ ∧ _ ∧ _ := by simpa [Ret.stores] using expireHoldover_stores s
    simp [hpass, hri, hro, hcount, expireHoldover_diag, LetsNoticesJoin]
  case transmit => simp [startTransmission_ri, startTransmission_diag, LetsNoticesJoin]
  case parcel k hk =>
    obtain ⟨hpass, hri, hro, ht, hs, hl, hprev, hcount⟩ : _ ∧ _ ∧ _ ∧ _ ∧ _ ∧ _ ∧ _ ∧ _ := by
      simpa [Ret.behind] using runParcel_ruleOf_behind k s
    obtain ⟨hdrive, hwatch, hpins, hfree, hpending⟩ : _ ∧ _ ∧ _ ∧ _ ∧ _ :=
      ⟨runParcel_drive k _ (fun p s => (ruleOf_frame k p s).1) s, runParcel_watch k _ (fun p s => (ruleOf_frame k p s).2.1) s,
        runParcel_pins k _ (fun p s => (ruleOf_frame k p s).2.2.1) s,
        runParcel_freeUses k _ (fun p s => (ruleOf_frame k p s).2.2.2.1) s,
        runParcel_pending k _ (fun p s => (ruleOf_frame k p s).2.2.2.2) s⟩
    have hmonitors := runParcel_ruleOf_monitors k s
    have hkind : ∃ j, parcelCommand k = parcelCommand j := ⟨k, rfl⟩
    refine ⟨.inl (runParcel_ruleOf_link k s), (runParcel_ruleOf_tables k s).imp_right .inl, .inr (.inl hkind),
      .inl (runParcel_ruleOf_levels k s), .inl hdrive, ?_, ?_, .inl ⟨runParcel_ruleOf_changed k s, ht, hs, hl⟩,
      .inr (.inr (.inl hkind)), .inr (.inr (.inl hkind)), .inl hprev, .inl hpass, .inl hri, .inl hro, .inl hcount,
      hmonitors.imp (fun h => h.2.1) .inl, hmonitors.imp (fun h => h.2.2) .inl, .inl hwatch, runParcel_ruleOf_snap k s, .inl hpins,
      .inl hfree, hpending⟩
    · exact hmonitors.imp (fun h => by rw [h.1]) fun h => .inl (by simp [h])
    · exact hmonitors.imp (fun h => by rw [h.1]) .inl

end Sys2Proof.Machine
end

section
/-! SUPPORT. The check word (R214): feeding is linear, a register fed its own value comes to 0, and what it so finds. -/

namespace Sys2Proof.Machine

open Sys2Proof Sys2Proof.Safety

/-! ### One bit -/

/-- What one step feeds back: the generator when the top bit and the bit fed differ (R214). -/
def crcFeedback (b : Bool) : Word := if b then 0x1021 else 0

theorem crcBit_eq (reg : Word) (b : Bool) : crcBit reg b = (reg <<< 1) ^^^ crcFeedback (reg.msb ^^ b) := by
  unfold crcBit crcFeedback
  cases reg.msb <;> cases b <;> simp

theorem crcFeedback_xor (a b : Bool) : crcFeedback (a ^^ b) = crcFeedback a ^^^ crcFeedback b := by
  cases a <;> cases b <;> decide

/-- One step is linear. -/
theorem crcBit_xor (r q : Word) (a b : Bool) : crcBit (r ^^^ q) (a ^^ b) = crcBit r a ^^^ crcBit q b := by
  have hfed : ((r ^^^ q).msb ^^ (a ^^ b)) = ((r.msb ^^ a) ^^ (q.msb ^^ b)) := by
    rw [BitVec.msb_xor]
    cases r.msb <;> cases q.msb <;> cases a <;> cases b <;> rfl
  rw [crcBit_eq, crcBit_eq, crcBit_eq, hfed, crcFeedback_xor, BitVec.shiftLeft_xor_distrib]
  ac_rfl

/-- A step that feeds 0 brings no register to 0 but 0: bit 0 of the result is the old top bit. -/
theorem crcBit_eq_zero {r : Word} (h : crcBit r false = 0) : r = 0 := by
  have hmsb : r.msb = false := by
    have hbit : (crcBit r false).getLsbD 0 = r.msb := by
      rw [crcBit_eq]
      cases r.msb <;> simp [crcFeedback]
    rw [h] at hbit
    exact hbit.symm
  rw [crcBit_eq, hmsb] at h
  have hshift : (r <<< 1).toNat = 0 := by simpa [crcFeedback] using congrArg BitVec.toNat h
  rw [BitVec.msb_eq_decide, decide_eq_false_iff_not] at hmsb
  rw [BitVec.toNat_shiftLeft, Nat.shiftLeft_eq] at hshift
  have hzero : r.toNat = 0 := by omega
  exact BitVec.eq_of_toNat_eq hzero

/-! ### One word -/

/-- The register after the first `n` bits of a word (R214). -/
def crcBits (n : Nat) (reg w : Word) : Word := (List.range n).foldl (fun r i => crcBit r (w.getLsbD (15 - i))) reg

theorem crcWord_eq (reg w : Word) : crcWord reg w = crcBits 16 reg w := rfl

theorem crcBits_succ (n : Nat) (reg w : Word) :
    crcBits (n + 1) reg w = crcBit (crcBits n reg w) (w.getLsbD (15 - n)) := by
  simp [crcBits, List.range_succ]

theorem crcBits_xor (n : Nat) (r q w v : Word) :
    crcBits n (r ^^^ q) (w ^^^ v) = crcBits n r w ^^^ crcBits n q v := by
  induction n with
  | zero => rfl
  | succ n ih => rw [crcBits_succ, crcBits_succ, crcBits_succ, ih, BitVec.getLsbD_xor, crcBit_xor]

/-- A register fed its own value only shifts: each bit fed is its top bit. -/
theorem crcBits_self (w : Word) (n : Nat) (h : n ≤ 16) : crcBits n w w = w <<< n := by
  induction n with
  | zero => simp [crcBits]
  | succ n ih =>
    have hmsb : (w <<< n).msb = w.getLsbD (15 - n) := by
      rw [BitVec.msb_shiftLeft, BitVec.getMsbD]
      simp [show n < 16 by omega]
    rw [crcBits_succ, ih (by omega), crcBit_eq, hmsb, Bool.xor_self, ← BitVec.shiftLeft_add]
    simp [crcFeedback]

theorem crcBits_zero_eq_zero {r : Word} (n : Nat) (h : crcBits n r 0 = 0) : r = 0 := by
  induction n with
  | zero => exact h
  | succ n ih =>
    have hbit : (0 : Word).getLsbD (15 - n) = false := BitVec.getLsbD_zero
    rw [crcBits_succ, hbit] at h
    exact ih (crcBit_eq_zero h)

theorem crcWord_self (w : Word) : crcWord w w = 0 := by
  rw [crcWord_eq, crcBits_self w 16 (le_refl _)]
  simp

/-- Two registers fed the same word stay apart. -/
theorem crcWord_reg_injective {r q w : Word} (h : crcWord r w = crcWord q w) : r = q := by
  have hxor := crcBits_xor 16 r q w w
  rw [← crcWord_eq, ← crcWord_eq, ← crcWord_eq, h, BitVec.xor_self, BitVec.xor_self] at hxor
  exact BitVec.xor_eq_zero_iff.mp (crcBits_zero_eq_zero 16 hxor)

/-- One register fed two words comes apart. -/
theorem crcWord_word_injective {r w v : Word} (h : crcWord r w = crcWord r v) : w = v := by
  have hxor := crcBits_xor 16 r r w v
  rw [← crcWord_eq, ← crcWord_eq, ← crcWord_eq, h, BitVec.xor_self, BitVec.xor_self] at hxor
  exact BitVec.xor_eq_zero_iff.mp (crcWord_reg_injective ((crcWord_self _).trans hxor.symm))

theorem foldl_crcWord_injective (ws : List Word) {r q : Word} (h : ws.foldl crcWord r = ws.foldl crcWord q) : r = q := by
  induction ws generalizing r q with
  | nil => exact h
  | cons w ws ih => exact crcWord_reg_injective (ih h)

/-- Settles O60: a register fed its own value comes to 0; words after the damaged one cannot undo the damage. -/
theorem checkWordFindsOneDamagedWord : Obligations.CheckWordFindsOneDamagedWord := by
  refine ⟨rfl, fun ws => ?_, fun a b w v h => ?_⟩
  · rw [crcOf, List.foldl_append]
    exact crcWord_self _
  · rw [crcOf, crcOf, List.foldl_append, List.foldl_append] at h
    exact crcWord_word_injective (foldl_crcWord_injective b h)

end Sys2Proof.Machine
end

section
/-! SUPPORT. The slot map and the effective on-time (01_the_slot_map.md, 04_correction_curves_and_output_drive.md): what a valid
MAP says of its entries, how many positions its take entries remove, and the entry that feeds a channel. -/

namespace Sys2Proof.Machine

open Sys2Proof Sys2Proof.Safety

/-! ### The entries of a valid MAP (R2, R90, R91) -/

section
variable {v : Vector Word 49}

theorem mapCount_le (h : MapValid v) : mapCount v ≤ 24 := by
  have h0 := h 0 (by decide)
  simp only [mapOffends, if_true, Bool.or_eq_false_iff, decide_eq_false_iff_not] at h0
  omega

/-- What the words of slot `j` offend against, once word 0 does not (R91). -/
theorem mapOffends_slot (h : MapValid v) {o j : Nat} (ho : o < 49) (hj : (o - 1) / 2 = j) (h0 : o ≠ 0)
    (hn : j < mapCount v) :
    (if o % 2 = 1 then
      bitsAt (wordAt v o) 12 3 != 0
        || (1 ≤ j && (mapEntry v j).start < (mapEntry v (j - 1)).start + (mapEntry v (j - 1)).length)
    else
      bitsAt (wordAt v o) 5 3 != 0 || (wordAt v o).getLsbD 15 || (mapEntry v j).length < 1 || 16 < (mapEntry v j).length
        || 4 < (mapEntry v j).curve || 4096 < (mapEntry v j).start + (mapEntry v j).length
        || 16 < (mapEntry v j).first + (mapEntry v j).length
        || (List.range j).any fun i => max (mapEntry v j).first (mapEntry v i).first
            < min ((mapEntry v j).first + (mapEntry v j).length) ((mapEntry v i).first + (mapEntry v i).length)) = false := by
  have hzero : (24 < mapCount v || bitsAt (wordAt v 0) 5 11 != 0) = false := h 0 (by decide)
  have := h o ho
  simp only [mapOffends, if_neg h0, hzero, hj, if_neg (not_le.mpr hn), Bool.false_eq_true, if_false] at this
  exact this

theorem mapEntry_start (h : MapValid v) {j : Nat} (hn : j + 1 < mapCount v) :
    (mapEntry v j).start + (mapEntry v j).length ≤ (mapEntry v (j + 1)).start := by
  have hcount := mapCount_le h
  have := mapOffends_slot h (o := 1 + 2 * (j + 1)) (j := j + 1) (by omega) (by omega) (by omega) hn
  rw [if_pos (by omega)] at this
  simpa using (Bool.or_eq_false_iff.mp this).2

theorem mapEntry_bounds (h : MapValid v) {j : Nat} (hn : j < mapCount v) :
    1 ≤ (mapEntry v j).length ∧ (mapEntry v j).length ≤ 16 ∧ (mapEntry v j).curve ≤ 4 ∧
      (mapEntry v j).start + (mapEntry v j).length ≤ 4096 ∧ (mapEntry v j).first + (mapEntry v j).length ≤ 16 ∧
      ∀ i, i < j → (mapEntry v i).first + (mapEntry v i).length ≤ (mapEntry v j).first ∨
        (mapEntry v j).first + (mapEntry v j).length ≤ (mapEntry v i).first ∨ (mapEntry v i).length = 0 := by
  have hcount := mapCount_le h
  have := mapOffends_slot h (o := 2 + 2 * j) (j := j) (by omega) (by omega) (by omega) hn
  rw [if_neg (by omega)] at this
  simp only [Bool.or_eq_false_iff, decide_eq_false_iff_not, List.any_eq_false, decide_eq_true_eq, List.mem_range] at this
  obtain ⟨⟨⟨⟨⟨⟨_, hlo⟩, hhi⟩, hcurve⟩, hpos⟩, hch⟩, hmeet⟩ := this
  refine ⟨by omega, by omega, by omega, by omega, by omega, fun i hi => ?_⟩
  have := hmeet i hi
  omega

/-- Entries stand in ascending start order without a shared position (R91). -/
theorem mapEntry_ascend (h : MapValid v) {i j : Nat} (hij : i < j) (hn : j < mapCount v) :
    (mapEntry v i).start + (mapEntry v i).length ≤ (mapEntry v j).start := by
  induction j, hij using Nat.le_induction with
  | base => exact mapEntry_start h hn
  | succ j hij ih =>
    have hprev := ih (by omega)
    have hnext := mapEntry_start h (j := j) hn
    omega

theorem mapEntries_bounds (h : MapValid v) : ∀ e ∈ mapEntries v,
    1 ≤ e.length ∧ e.length ≤ 16 ∧ e.curve ≤ 4 ∧ e.start + e.length ≤ 4096 ∧ e.first + e.length ≤ 16 := by
  intro e he
  obtain ⟨j, hj, rfl⟩ := List.mem_map.mp he
  obtain ⟨hlo, hhi, hcurve, hpos, hch, -⟩ := mapEntry_bounds h (List.mem_range.mp hj)
  exact ⟨hlo, hhi, hcurve, hpos, hch⟩

theorem mapEntries_pairwise (h : MapValid v) : (mapEntries v).Pairwise fun a b => a.start + a.length ≤ b.start ∧
    (a.first + a.length ≤ b.first ∨ b.first + b.length ≤ a.first) := by
  rw [mapEntries, List.pairwise_map]
  refine List.pairwise_lt_range.imp_of_mem fun {i j} _ hj hij => ?_
  have hn := List.mem_range.mp hj
  obtain ⟨hlo, -⟩ := mapEntry_bounds h (hij.trans hn)
  obtain ⟨-, -, -, -, -, hmeet⟩ := mapEntry_bounds h hn
  exact ⟨mapEntry_ascend h hij hn, by have := hmeet i hij; omega⟩

end

/-! ### Taken positions (R10, R13) -/

theorem countP_or_of_disjoint {α : Type} {p q : α → Bool} (l : List α) (h : ∀ x, p x = true → q x = false) :
    l.countP (fun x => p x || q x) = l.countP p + l.countP q := by
  induction l with
  | nil => rfl
  | cons x l ih =>
    cases hp : p x with
    | true => simp [ih, hp, h x hp]; omega
    | false => cases hq : q x <;> simp [ih, hp, hq]; omega

/-- In-range coverage counts the positions below `p` that the entry covers (R10). -/
theorem countP_covers (e : Entry) (p : Nat) : (List.range p).countP e.covers = e.inRange p := by
  induction p with
  | zero => simp [Entry.inRange]
  | succ p ih =>
    rw [List.range_succ, List.countP_append, ih, List.countP_singleton]
    unfold Entry.inRange
    by_cases hlo : e.start ≤ p <;> by_cases hhi : p < e.start + e.length <;> simp [Entry.covers, hlo, hhi]
    all_goals (repeat' split) <;> omega

/-- The taken count of entries that share no position is the number of positions that a take entry covers (R13). -/
theorem takenCount_eq (m : List Entry) (h : m.Pairwise fun a b => a.start + a.length ≤ b.start) (p : Nat) :
    takenCount m p = (List.range p).countP fun k => m.any fun e => e.take && e.covers k := by
  induction m with
  | nil => simp [takenCount]
  | cons e m ih =>
    rw [List.pairwise_cons] at h
    have hcount : takenCount (e :: m) p =
        (List.range p).countP (fun k => e.take && e.covers k) + takenCount m p := by
      cases ht : e.take <;> simp [takenCount, ht]
      exact (countP_covers e p).symm
    have hdisjoint : ∀ k, (e.take && e.covers k) = true → (m.any fun x => x.take && x.covers k) = false := by
      intro k hk
      simp only [Entry.covers, Bool.and_eq_true, decide_eq_true_eq] at hk
      rw [List.any_eq_false]
      intro x hx
      have := h.1 x hx
      simp only [Entry.covers, Bool.and_eq_true, decide_eq_true_eq]
      omega
    rw [hcount, ih h.2, ← countP_or_of_disjoint _ hdisjoint]
    rfl

/-- Settles O16: the entries word by word of the copy; the forwarded count by counting covered positions entry by entry. -/
theorem validMapEntriesAndForwardedCount : Obligations.ValidMapEntriesAndForwardedCount := by
  refine ⟨fun v h => ⟨mapEntries_bounds h, mapEntries_pairwise h, ?_⟩, fun v p h => ?_⟩
  · rw [mapEntries, List.length_map, List.length_range]
    exact mapCount_le h
  · rw [forwardedCount, takenCount_eq _ ((mapEntries_pairwise h).imp And.left), List.countP_eq_length_filter]

/-! ### The feeding entry (R17) -/

theorem Entry.feeds_iff (e : Entry) (c : Nat) : e.feeds c = true ↔ e.first ≤ c ∧ c < e.first + e.length := by
  simp [Entry.feeds]

/-- An entry that alone can feed the channel is the one found. -/
theorem feedingEntry_of_mem {m : List Entry} {e : Entry} {c : Nat}
    (h : m.Pairwise fun a b => a.first + a.length ≤ b.first ∨ b.first + b.length ≤ a.first) (he : e ∈ m)
    (hf : e.feeds c = true) : feedingEntry m c = some e := by
  unfold feedingEntry
  induction m with
  | nil => cases he
  | cons a m ih =>
    rw [List.pairwise_cons] at h
    rcases List.mem_cons.mp he with rfl | he
    · exact List.find?_cons_of_pos hf
    · have ha : ¬ a.feeds c = true := by
        have := h.1 e he
        rw [Entry.feeds_iff] at hf ⊢
        omega
      rw [List.find?_cons, Bool.eq_false_iff.mpr ha]
      exact ih h.2 he

theorem feedingEntry_none {m : List Entry} {c : Nat} (h : ∀ e ∈ m, ¬ (e.first ≤ c ∧ c < e.first + e.length)) :
    feedingEntry m c = none := by
  rw [feedingEntry, List.find?_eq_none]
  intro e he
  rw [Entry.feeds_iff]
  exact h e he

/-! ### The effective on-time (R58, R67, R70, R71) -/

theorem LinkState.showsActive_iff (l : LinkState) : l.showsActive = true ↔ l = .live ∨ l = .holdover := by
  cases l <;> decide

/-- The displayed level of a channel that an entry feeds (R58). -/
theorem displayed_mapped {s : State} {c : Fin 16} {e : Entry} (h : feedingEntry s.activeMap c = some e) : s.displayed c =
    if s.watch.state = .live ∨ s.watch.state = .holdover then s.levels[c].active
    else polFallback s.tables.policy.active c := by
  unfold State.displayed mapped
  rw [h]
  simp only [Option.isSome_some, Bool.and_true, LinkState.showsActive_iff]

theorem displayed_unmapped {s : State} {c : Fin 16} (h : feedingEntry s.activeMap c = none) :
    s.displayed c = polFallback s.tables.policy.active c := by
  unfold State.displayed mapped
  rw [h]
  simp

theorem effOnTime_latched {s : State} {c : Fin 16} (h : s.diag.latches[c].isSome = true) : s.effOnTime c = 0 := if_pos h

theorem effOnTime_unlatched {s : State} {c : Fin 16} (h : s.diag.latches[c] = none) : s.effOnTime c =
    curveOnTime s.tables.curves.active (curveCode s.activeMap c) (s.displayed c)
      * derate s.tables.policy.active s.thermal.band / 256 := if_neg (by simp [h])

theorem curveOnTime_raw (curves : Vector Word 68) (x : Word) : curveOnTime curves 4 x = x.toNat / 16 := rfl

theorem curveOnTime_curve (curves : Vector Word 68) {k : Nat} (hk : k ≤ 3) (x : Word) : curveOnTime curves k x =
    curvePoint curves k (x.toNat / 4096) +
      (curvePoint curves k (x.toNat / 4096 + 1) - curvePoint curves k (x.toNat / 4096)) * (x.toNat % 4096) / 4096 :=
  if_pos hk

/-- The identity curve gives what RAW gives (R66 to R68). -/
theorem curveOnTime_identity {k : Nat} (hk : k < 4) (x : Word) : curveOnTime curvesWords0 k x = x.toNat / 16 := by
  obtain ⟨-, hcurves, -⟩ := powerOnWords_contents
  have hx : x.toNat < 65536 := x.isLt
  rw [curveOnTime_curve _ (by omega), hcurves k hk _ (by omega), hcurves k hk _ (by omega),
    show 256 * (x.toNat / 4096 + 1) - 256 * (x.toNat / 4096) = 256 by omega]
  omega

/-- Settles O42: a latch forces 0; else the level displayed goes through the curve of the one entry that feeds the
channel, or RAW, and is derated. -/
theorem effectiveOnTime : Obligations.EffectiveOnTime := by
  refine ⟨fun s c hsound => ⟨derate s.tables.policy.active s.thermal.band, ?_, effOnTime_le ((tablesSound_iff s).mp hsound) c,
    effOnTime_latched, fun hlatch => ⟨fun e he hlo hhi => ?fed, fun hnone => ?unfed⟩⟩, fun k x hk => curveOnTime_identity hk x⟩
  · cases s.thermal.band <;> rfl
  case fed =>
    have hmap : MapValid s.tables.map.active := hsound.1.1
    have hfeed : feedingEntry s.activeMap c = some e :=
      feedingEntry_of_mem ((mapEntries_pairwise hmap).imp And.right) he ((e.feeds_iff c).mpr ⟨hlo, hhi⟩)
    obtain ⟨-, -, hcurve, -⟩ := mapEntries_bounds hmap e he
    refine ⟨_, rfl, ?_⟩
    rw [effOnTime_unlatched hlatch, displayed_mapped hfeed, curveCode, hfeed]
    by_cases hraw : e.curve = 4
    · simp only [hraw, if_true, curveOnTime_raw]
    · simp only [if_neg hraw, curveOnTime_curve s.tables.curves.active (show e.curve ≤ 3 by omega)]
  case unfed =>
    have hfeed : feedingEntry s.activeMap c = none := feedingEntry_none hnone
    rw [effOnTime_unlatched hlatch, displayed_unmapped hfeed, curveCode, hfeed]
    simp only [curveOnTime_raw]

end Sys2Proof.Machine
end

section
/-! SUPPORT. The execution of parcels (R118 to R124, R128, R98, R200, R216): what ends a parcel before its execution, PING,
ACK-START and DISCARD, and broadcasts. -/

namespace Sys2Proof.Machine

open Sys2Proof Sys2Proof.Safety

/-! ### A parcel that has its turn -/

section
variable {s : State} {k : ParcelKind} {p : Parcel} {rest : List Parcel}

theorem runParcel_of_addressed (h : Turn s p rest) (hs : p.standing = .addressed) (hk : parcelKindOf p.kind = some k)
    (rule : ParcelRule) : runParcel k rule s = addressedSteps k rule p (takeParcel rest s) := by
  simp only [runParcel, h.head, h.executable, hk, hs, and_self, if_true]

theorem runParcel_of_broadcast (h : Turn s p rest) (hs : p.standing = .broadcast) (hk : parcelKindOf p.kind = some k)
    (rule : ParcelRule) : runParcel k rule s = broadcastSteps k rule p (takeParcel rest s) := by
  simp only [runParcel, h.head, h.executable, hk, hs, and_self, if_true]

/-- An addressed RESTART of a length that does not suit goes the way of every parcel (R118, R127). -/
theorem runRestart_unsuited (h : Turn s p rest) (hs : p.standing = .addressed)
    (hk : parcelKindOf p.kind = some .restart) (hlen : ParcelKind.restart.suits p.len = false) :
    runRestart s = addressedSteps .restart (ruleOf .restart) p (takeParcel rest s) := by
  simp only [runRestart, h.head, h.executable, hk, hs, hlen, and_self, if_true, Bool.false_eq_true, if_false]
  rfl

theorem exec_restart_of_turn (h : Turn s p rest) : exec .restart s = .next (runRestart s) := whenUp_of_up h.up _

/-- An addressed parcel goes through the steps of R118, but for a RESTART of length 0 (R127). -/
theorem exec_of_addressed (h : Turn s p rest) (hs : p.standing = .addressed) (hk : parcelKindOf p.kind = some k)
    (hrestart : k = .restart → k.suits p.len = false) :
    exec (parcelCommand k) s = .next (addressedSteps k (ruleOf k) p (takeParcel rest s)) := by
  by_cases hr : k = .restart
  · subst hr
    exact (exec_restart_of_turn h).trans (congrArg _ (runRestart_unsuited h hs hk (hrestart rfl)))
  · rw [exec_parcelCommand hr, whenUp_of_up h.up, runParcel_of_addressed h hs hk]

/-- An addressed parcel of a recorded kind that is executed: its rule, its entry in the history, its reply (R118 step 5). -/
theorem runParcel_recorded (h : AddressedTurn s k p rest) (hk : k.recorded = true) (rule : ParcelRule) :
    whenUp s (runParcel k rule) = .next (reply p (rule p (takeParcel rest s)).2.code false (rule p (takeParcel rest s)).2.body
      { (rule p (takeParcel rest s)).1 with parcels := { (rule p (takeParcel rest s)).1.parcels with
          history := historyAfter (rule p (takeParcel rest s)).1.parcels.history k p.tag
            (rule p (takeParcel rest s)).2.code } }) := by
  rw [runParcel_addressed h, executeAddressed, addHistory_eq _ _ _ _ hk]

end

/-! ### Steps 1 to 4 of R118 -/

section
variable {k : ParcelKind} {rule : ParcelRule} {p : Parcel} {x : State}

theorem addressedSteps_full (h : 8 ≤ x.ret.queue.length) : addressedSteps k rule p x = loseMessage x := if_pos h

theorem addressedSteps_length (h : x.ret.queue.length < 8) (hlen : k.suits p.len = false) :
    addressedSteps k rule p x = reply p .badLength false [] x := (if_neg (not_le.mpr h)).trans (if_pos hlen)

theorem addressedSteps_repeat {code : ResultCode} (h : x.ret.queue.length < 8) (hlen : k.suits p.len = true)
    (hrep : repeatedResult k p.tag x.parcels.history = some code) :
    addressedSteps k rule p x = reply p code true [] x := by
  refine (if_neg (not_le.mpr h)).trans ((if_neg (by simp [hlen])).trans ?_)
  rw [hrep]

end

/-- The one entry of a tag is the one found (R123, R124). -/
theorem repeatedResult_of_mem {h : List HistEntry} (hpair : h.Pairwise fun a b => a.tag ≠ b.tag) {k : ParcelKind}
    {e : HistEntry} (hrec : k.recorded = true) (htag : e.tag ≠ 0) (he : e ∈ h) (hkind : e.kind = k) :
    repeatedResult k e.tag h = some e.code := by
  rw [repeatedResult, if_neg (not_or.mpr ⟨htag, by simp [hrec]⟩)]
  have hfind : (h.find? fun x => x.tag == e.tag && x.kind == k) = some e := by
    induction h with
    | nil => cases he
    | cons a h ih =>
      rw [List.pairwise_cons] at hpair
      rcases List.mem_cons.mp he with rfl | he
      · exact List.find?_cons_of_pos (by simp [hkind])
      · rw [List.find?_cons_of_neg (by simp [hpair.1 e he])]
        exact ih hpair.2 he
  rw [hfind]
  rfl

/-- Settles O38: the steps of R118 in their order, each of which ends the parcel before its rule. -/
theorem parcelRefusedBeforeExecution : Obligations.ParcelRefusedBeforeExecution := by
  intro s k p rest hturn hs hk
  refine ⟨fun hfull hrestart => ?full, fun hslot hlen => ?length, fun e hhist hslot hlen hrec htag he htage hkind => ?again⟩
  case full =>
    have hunsuited : k = .restart → k.suits p.len = false := fun h => by
      subst h
      simpa [ParcelKind.suits] using hrestart rfl
    rw [exec_of_addressed hturn hs hk hunsuited, addressedSteps_full (x := takeParcel rest s) hfull]
    rfl
  case length =>
    rw [exec_of_addressed hturn hs hk fun _ => hlen, addressedSteps_length (x := takeParcel rest s) hslot hlen]
    rfl
  case again =>
    have hne : k = .restart → k.suits p.len = false := fun h => by subst h; cases hrec
    have hrep : repeatedResult k p.tag s.parcels.history = some e.code :=
      htage ▸ repeatedResult_of_mem hhist.2.1 hrec (htage ▸ htag) he hkind
    rw [exec_of_addressed hturn hs hk hne, addressedSteps_repeat (x := takeParcel rest s) hslot hlen hrep]
    rfl

/-! ### PING, ACK-START, DISCARD -/

/-- Settles O28: PING only reads; ACK-START clears one mark and is recorded. -/
theorem pingAndAckStart : Obligations.PingAndAckStart := by
  refine ⟨fun s p rest hturn => ?_, fun s p rest hturn => ?_⟩
  · exact runParcel_readOnly hturn rfl fun _ s => ⟨.done, [addressWord s, partCode]⟩
  · exact runParcel_recorded hturn rfl ackStartRule

theorem exec_discard_of_turn {s : State} {p : Parcel} {rest : List Parcel} (h : AddressedTurn s .discard p rest) :
    exec .discard s = .next (tablesAnswered s .discard p rest (s.tables.discard (sectionSet (p.bodyAt 0)))) :=
  runParcel_tableRule h rfl fun p t => t.discard (sectionSet (p.bodyAt 0))

theorem discard_of_refusal {t : Tables} {cs : List SecCode} {a : Answer} (h : t.discardRefusal cs = some a) :
    t.discard cs = (t, a) := by simp only [Tables.discard, h]

theorem discard_done {t : Tables} {cs : List SecCode} (h : t.discardRefusal cs = none) :
    t.discard cs = (t.changeEach cs fun _ x => x.revert, ⟨.done, []⟩) := by simp only [Tables.discard, h]

/-- Settles O33: a DISCARD is refused by its first section that does not pass, or restores each section of its set. -/
theorem discardAllOrNone : Obligations.DiscardAllOrNone := by
  intro s p rest hturn
  refine ⟨sectionSet (p.bodyAt 0), (s.tables.discard (sectionSet (p.bodyAt 0))).1,
    (s.tables.discard (sectionSet (p.bodyAt 0))).2.code, (s.tables.discard (sectionSet (p.bodyAt 0))).2.body,
    sectionSet_eq _, exec_discard_of_turn hturn, ?_⟩
  generalize sectionSet (p.bodyAt 0) = cs
  rcases discardRefusal_cases s.tables cs with ⟨hnone, hpass⟩ | ⟨pre, c, post, a, hcs, hpre, hsome, hwhy⟩
  · rw [discard_done hnone]
    exact .inl ⟨hpass, rfl, rfl, fun d => changeEach_revert cs s.tables d⟩
  · rw [discard_of_refusal hsome]
    rcases hwhy with ⟨hf, rfl⟩ | ⟨hf, hp, rfl⟩
    · exact .inr ⟨pre, c, post, hcs, hpre, rfl, rfl, .inl ⟨hf, rfl⟩⟩
    · exact .inr ⟨pre, c, post, hcs, hpre, rfl, rfl, .inr ⟨hf, hp, rfl⟩⟩

/-! ### Broadcasts (R121) -/

theorem clearFaultsRule_eq (p : Parcel) (s : State) : clearFaultsRule p s =
    ({ s with
        diag := clearFaultsDiag s.tables.drive.active (p.bodyAt 0) (p.bodyAt 1) s.diag
        thermal := if (p.bodyAt 1).getLsbD 4 then { s.thermal with highest := s.thermal.band } else s.thermal
        supply := if (p.bodyAt 1).getLsbD 5 then { s.supply with lowMark := s.supply.state == .low } else s.supply },
      ⟨.done, []⟩) := by
  simp only [clearFaultsRule]
  rfl

/-- A rule that a broadcast runs reads neither the standing and tag of its parcel nor the return lane, and leaves the
lane alone. -/
theorem ruleOf_addressed {k : ParcelKind} (h : k.runsBroadcast = true) (p : Parcel) (x : State) (st : Standing) (tag : Byte)
    (r : Ret) : (ruleOf k { p with standing := st, tag := tag } { x with ret := r }).1 =
      { (ruleOf k p x).1 with ret := r } := by
  cases k
  case clearFaults => simp only [ruleOf, clearFaultsRule_eq]; rfl
  case capture => simp only [ruleOf, captureRule]; rfl
  case ping | status | read | thaw | readSnapshot => cases h
  all_goals rfl

/-- Settles O39: a parcel of tag 0 is neither looked up nor recorded, so that its execution is its rule and a reply. -/
theorem broadcastExecutesWithoutReply : Obligations.BroadcastExecutesWithoutReply := by
  intro s k p rest hturn hruns hne
  have hb : exec (parcelCommand k) s = .next (ruleOf k p (takeParcel rest s)).1 := by
    rw [exec_parcelCommand hne, runParcel_broadcast hturn, if_pos hruns]
  let q : Parcel := { p with standing := .addressed, tag := 0 }
  let y : State := { s with
    parcels := { s.parcels with buffer := q :: rest }
    ret := { s.ret with queue := [] } }
  have ha : AddressedTurn y k q rest :=
    { turn := ⟨hturn.turn.up, rfl, hturn.turn.executable⟩, addressed := rfl, kind := hturn.kind, suits := hturn.suits
      slot := Nat.zero_lt_succ _, fresh := if_pos (.inl rfl) }
  refine ⟨_, _, hb, (exec_parcelCommand hne y).trans (runParcel_addressed ha _), ?_⟩
  have hrule : (ruleOf k q (takeParcel rest y)).1 = { (ruleOf k p (takeParcel rest s)).1 with ret := y.ret } :=
    ruleOf_addressed hruns p (takeParcel rest s) .addressed 0 y.ret
  have hret : (ruleOf k p (takeParcel rest s)).1.ret = s.ret := ruleOf_ret k p _
  have hlog : ∀ code h, addHistory k q.tag code h = h := fun code h => if_pos (.inl rfl)
  simp only [executeAddressed, reply, joinMsg, hrule, hlog]
  rw [← hret]

/-- Settles O40: a broadcast that is not run only leaves the buffer, and so does one of unknown kind; an addressed one of
unknown kind is answered if the queue has room. -/
theorem ignoredAndUnknownParcels : Obligations.IgnoredAndUnknownParcels := by
  refine ⟨fun s k p rest hturn hs hk hwhy => ?ignored, fun s p rest hturn hk => ?unknown⟩
  case ignored =>
    have hnot : ¬ (k.runsBroadcast = true ∧ k.suits p.len = true) := by
      rcases hwhy with hmem | hlen
      · rintro ⟨hruns, -⟩
        cases k <;> simp_all [ParcelKind.runsBroadcast]
      · simp [hlen]
    by_cases hr : k = .restart
    · subst hr
      have hlen : ParcelKind.restart.suits p.len = false := by simpa [ParcelKind.runsBroadcast] using hnot
      refine (exec_restart_of_turn hturn).trans (congrArg _ ?_)
      simp only [runRestart, hturn.head, hturn.executable, hk, hs, hlen, and_self, if_true, Bool.false_eq_true, if_false]
      rfl
    · rw [exec_parcelCommand hr, whenUp_of_up hturn.up, runParcel_of_broadcast hturn hs hk, broadcastSteps, if_neg hnot]
      rfl
  case unknown =>
    refine (whenUp_of_up hturn.up runUnknown).trans (congrArg _ ?_)
    simp only [runUnknown, hturn.head, hturn.executable, hk, and_self, if_true]
    cases p.standing with
    | broadcast => rfl
    | addressed => rfl

end Sys2Proof.Machine
end

section
/-! SUPPORT. The words that the node composes of its state (R129, R203, R204, R212) and CLEAR-FAULTS (R166 to R169): bitmaps,
the STATUS words, the image, and the lowest record with a property. -/

namespace Sys2Proof.Machine

open Sys2Proof Sys2Proof.Safety

/-! ### Marks and bitmaps -/

theorem marks_succ {n : Nat} (f : Fin (n + 1) → Bool) : ((List.finRange (n + 1)).map fun c => markAt (f c) c.val).sum =
    markAt (f (Fin.last n)) n + ((List.finRange n).map fun c => markAt (f c.castSucc) c.val).sum := by
  rw [List.finRange_succ_last, List.map_append, List.sum_append, List.map_map, Nat.add_comm]
  simp [Function.comp_def]

theorem marks_lt {n : Nat} (f : Fin n → Bool) : ((List.finRange n).map fun c => markAt (f c) c.val).sum < 2 ^ n := by
  induction n with
  | zero => simp
  | succ n ih =>
    have hlow := ih fun c => f c.castSucc
    rw [marks_succ, Nat.pow_succ]
    unfold markAt at hlow ⊢
    split <;> omega

/-- A bitmap has at each bit the mark of that bit. -/
theorem marks_testBit {n : Nat} (f : Fin n → Bool) (i : Fin n) :
    ((List.finRange n).map fun c => markAt (f c) c.val).sum.testBit i = f i := by
  induction n with
  | zero => exact i.elim0
  | succ n ih =>
    have hlow := marks_lt fun c : Fin n => f c.castSucc
    rw [marks_succ, markAt]
    refine Fin.lastCases ?last (fun j => ?low) i
    case last =>
      cases f (Fin.last n) with
      | true => rw [if_pos rfl, Fin.val_last, Nat.testBit_two_pow_add_eq, Nat.testBit_lt_two_pow hlow]; rfl
      | false => rw [if_neg (by simp), Nat.zero_add, Fin.val_last, Nat.testBit_lt_two_pow hlow]
    case low =>
      cases f (Fin.last n) with
      | true => rw [if_pos rfl, Nat.testBit_two_pow_add_gt (by simp), ← ih fun c => f c.castSucc]; rfl
      | false => rw [if_neg (by simp), Nat.zero_add, ← ih fun c => f c.castSucc]; rfl

theorem bitmap_getLsbD (f : Fin 16 → Bool) (c : Fin 16) :
    (wordOf ((List.finRange 16).map fun c => markAt (f c) c.val).sum).getLsbD c.val = f c := by
  rw [wordOf, BitVec.getLsbD_ofNat, marks_testBit]
  simp

/-! ### The STATUS words (R129, R212) -/

theorem wordOf_toNat {n : Nat} (h : n < 65536) : (wordOf n).toNat = n := by
  rw [wordOf, BitVec.toNat_ofNat, Nat.mod_eq_of_lt h]

theorem saysStart_startWord (s : State) : SaysStart s (startWord s) := by
  have haddr : s.link.address.toNat < 256 := s.link.address.isLt
  unfold SaysStart startWord
  cases s.parcels.startMark <;> cases s.parcels.cause <;> simp [markAt] <;> rw [wordOf_toNat (by omega)]

theorem Band.value_lt (b : Band) : b.value < 4 := by cases b <;> decide

theorem LinkState.value_lt (l : LinkState) : l.value < 4 := by cases l <;> decide

theorem saysMonitors_monitorWord (s : State) : SaysMonitors s (monitorWord s) := by
  have hlink := s.watch.state.value_lt
  have hband := s.thermal.band.value_lt
  have hhighest := s.thermal.highest.value_lt
  unfold SaysMonitors monitorWord
  cases s.supply.state <;> cases s.supply.lowMark <;> simp [markAt] <;> rw [wordOf_toNat (by omega)]

/-- Frozen marks in bits 0 to 3 and pending marks in bits 8 to 11 (R212). -/
theorem eightMarks_getLsbD : ∀ a b c d e f g h : Bool,
    let w := wordOf (markAt a 0 + markAt b 1 + markAt c 2 + markAt d 3 + markAt e 8 + markAt f 9 + markAt g 10 + markAt h 11)
    (w.getLsbD 0 = a ∧ w.getLsbD 8 = e) ∧ (w.getLsbD 1 = b ∧ w.getLsbD 9 = f) ∧ (w.getLsbD 2 = c ∧ w.getLsbD 10 = g) ∧
      (w.getLsbD 3 = d ∧ w.getLsbD 11 = h) := by decide

theorem saysMarks_marksWord (s : State) : SaysMarks s s.tables.marksWord := by
  obtain ⟨hmap, hcurves, hdrive, hpolicy⟩ := eightMarks_getLsbD s.tables.map.frozen s.tables.curves.frozen
    s.tables.drive.frozen s.tables.policy.frozen s.tables.map.pending s.tables.curves.pending s.tables.drive.pending
    s.tables.policy.pending
  intro x
  cases x
  · exact hmap
  · exact hcurves
  · exact hdrive
  · exact hpolicy

theorem saysIsolation_bitmap (s : State) : SaysIsolation s s.diag.isolationBitmap :=
  bitmap_getLsbD fun c => s.diag.latches[c].isSome

theorem countRecs_le (f : Fin 63 → Bool) : countRecs f ≤ 63 := by
  have := List.length_filter_le f (List.finRange 63)
  rwa [List.length_finRange] at this

/-- Settles O29: STATUS only reads; each of its words says what it is composed of. -/
theorem statusAnswered : Obligations.StatusAnswered := by
  intro s p rest hturn
  have hcount : ∀ f, (wordOf (countRecs f)).toNat = countRecs f := fun f =>
    wordOf_toNat (by have := countRecs_le f; omega)
  exact ⟨startWord s, monitorWord s, s.tables.marksWord, s.diag.isolationBitmap, wordOf s.diag.standingCount,
    wordOf s.diag.seenCount, runParcel_readOnly hturn rfl fun _ s => ⟨.done, statusBody s⟩, saysStart_startWord s,
    saysMonitors_monitorWord s, saysMarks_marksWord s, saysIsolation_bitmap s, hcount _, hcount _⟩

/-! ### The image (R202 to R205) -/

theorem imageWords_eq (s : State) : imageWords s = s.link.lastGood :: startWord s :: monitorWord s :: s.tables.map.gen ::
    s.tables.curves.gen :: s.tables.drive.gen :: s.tables.policy.gen :: s.tables.marksWord :: s.diag.isolationBitmap ::
    heldBitmap s.levels :: ((List.finRange 16).flatMap (channelWords s) ++
      (List.range 16).map (recordWord s.diag.records)) := rfl

/-- The words of equal groups, one group after the other. -/
theorem getElem?_flatMap_three {α β : Type} {f : α → List β} (hf : ∀ a, (f a).length = 3) (l : List α) (i j : Nat)
    (hj : j < 3) : (l.flatMap f)[3 * i + j]? = l[i]?.bind fun a => (f a)[j]? := by
  induction l generalizing i with
  | nil => simp
  | cons a l ih =>
    rw [List.flatMap_cons]
    cases i with
    | zero => rw [List.getElem?_append_left (by rw [hf]; omega)]; simp
    | succ i =>
      rw [List.getElem?_append_right (by rw [hf]; omega), hf, show 3 * (i + 1) + j - 3 = 3 * i + j by omega, ih]
      rfl

theorem channelWords_length (s : State) (c : Fin 16) : (channelWords s c).length = 3 := rfl

theorem channelBlock_length (s : State) : ((List.finRange 16).flatMap (channelWords s)).length = 48 := by
  simp [List.length_flatMap, channelWords_length]

/-- Snapshot words 10 + 3c to 12 + 3c are those of channel `c` (R204, R212). -/
theorem imageWords_channel (s : State) (c : Fin 16) (j : Nat) (hj : j < 3) :
    (imageWords s)[10 + (3 * c.val + j)]? = (channelWords s c)[j]? := by
  have hc : (List.finRange 16)[c.val]? = some c := by simp
  rw [imageWords_eq, show 10 + (3 * c.val + j) = 3 * c.val + j + 10 by omega]
  simp only [List.getElem?_cons_succ]
  rw [List.getElem?_append_left (by rw [channelBlock_length]; omega),
    getElem?_flatMap_three (channelWords_length s) _ _ _ hj, hc]
  rfl

/-- Snapshot words 58 to 73 are the record words (R204, R212). -/
theorem imageWords_record (s : State) (j : Nat) (hj : j < 16) :
    (imageWords s)[58 + j]? = some (recordWord s.diag.records j) := by
  rw [imageWords_eq, show 58 + j = 48 + j + 10 by omega]
  simp only [List.getElem?_cons_succ]
  rw [List.getElem?_append_right (by rw [channelBlock_length]; omega), channelBlock_length, Nat.add_sub_cancel_left]
  simp [hj]

/-- The image that a CAPTURE takes. -/
def capturedImage (s : State) : Vector Word 74 := Vector.ofFn fun i => (imageWords s).getD i.val 0

theorem capturedImage_get? (s : State) {i : Nat} {w : Word} (hi : i < 74) (h : (imageWords s)[i]? = some w) :
    (capturedImage s)[i]? = some w := by
  simp [capturedImage, hi, h, List.getD_eq_getElem?_getD]

theorem capturedImage_channel (s : State) (c : Fin 16) {i j : Nat} {w : Word} (hi : i = 10 + (3 * c.val + j)) (hj : j < 3)
    (h : (channelWords s c)[j]? = some w) : (capturedImage s)[i]? = some w :=
  capturedImage_get? s (by omega) (by rw [hi, imageWords_channel s c j hj, h])

/-- The four bits of record `i` in a record word, 0 where there is none (R204, R212). -/
def nibbleAt (recs : Vector FaultRec 63) (i : Nat) : Nat :=
  match recs[i]? with
  | some r => recordNibble r
  | none => 0

theorem recordNibble_lt (r : FaultRec) : recordNibble r < 8 := by
  have hstate : r.state.value < 4 := by cases r.state <;> decide
  unfold recordNibble
  cases r.seen <;> simp [markAt] <;> omega

theorem nibbleAt_lt (recs : Vector FaultRec 63) (i : Nat) : nibbleAt recs i < 8 := by
  unfold nibbleAt
  split
  · exact recordNibble_lt _
  · decide

theorem recordWord_toNat (recs : Vector FaultRec 63) (j : Nat) : (recordWord recs j).toNat =
    nibbleAt recs (4 * j) + nibbleAt recs (4 * j + 1) * 16 + nibbleAt recs (4 * j + 2) * 256
      + nibbleAt recs (4 * j + 3) * 4096 := by
  have hlt := nibbleAt_lt recs
  have h0 := hlt (4 * j)
  have h1 := hlt (4 * j + 1)
  have h2 := hlt (4 * j + 2)
  have h3 := hlt (4 * j + 3)
  have hsum : recordWord recs j = wordOf ((List.range 4).map fun i => nibbleAt recs (4 * j + i) * 16 ^ i).sum := by
    unfold recordWord
    congr
    funext i
    unfold nibbleAt
    cases recs[4 * j + i]? <;> simp
  have hdigits : ((List.range 4).map fun i => nibbleAt recs (4 * j + i) * 16 ^ i).sum = nibbleAt recs (4 * j)
      + nibbleAt recs (4 * j + 1) * 16 + nibbleAt recs (4 * j + 2) * 256 + nibbleAt recs (4 * j + 3) * 4096 := by
    simp [List.range_succ, Nat.add_assoc]
  rw [hsum, hdigits, wordOf_toNat (by omega)]

/-- The four bits of a record in its word. -/
theorem recordWord_nibble (recs : Vector FaultRec 63) (i : Nat) :
    (recordWord recs (i / 4)).toNat / 16 ^ (i % 4) % 16 = nibbleAt recs i := by
  have hlt := nibbleAt_lt recs
  have h0 := hlt (4 * (i / 4))
  have h1 := hlt (4 * (i / 4) + 1)
  have h2 := hlt (4 * (i / 4) + 2)
  have h3 := hlt (4 * (i / 4) + 3)
  rw [recordWord_toNat]
  have hi : i = 4 * (i / 4) + i % 4 := by omega
  have hr : i % 4 = 0 ∨ i % 4 = 1 ∨ i % 4 = 2 ∨ i % 4 = 3 := by omega
  rcases hr with h | h | h | h <;> rw [h] at hi ⊢ <;> conv_rhs => rw [hi]
  · simp only [Nat.add_zero, Nat.pow_zero, Nat.div_one]; omega
  · omega
  · omega
  · omega

/-- There is no record 63 (R150). -/
theorem recordWord_last (recs : Vector FaultRec 63) : (recordWord recs 15).toNat < 4096 := by
  have hnone : nibbleAt recs (4 * 15 + 3) = 0 := by simp [nibbleAt]
  have h0 := nibbleAt_lt recs (4 * 15)
  have h1 := nibbleAt_lt recs (4 * 15 + 1)
  have h2 := nibbleAt_lt recs (4 * 15 + 2)
  rw [recordWord_toNat, hnone]
  omega

theorem wordAt_of_lt {n : Nat} (v : Vector Word n) {i : Nat} (h : i < n) : wordAt v i = v[i] := by simp [wordAt, h]

theorem exec_capture_of_turn {s : State} {p : Parcel} {rest : List Parcel} (h : AddressedTurn s .capture p rest) :
    exec .capture s = .next (answered
      { s with
        snap := { image := capturedImage s, valid := true }
        parcels := { s.parcels with history := historyAfter s.parcels.history .capture p.tag .done } }
      p rest .done false []) := runParcel_recorded h rfl captureRule

/-- Settles O35: the image is the list of the words; channel and record words stand at their places in it. -/
theorem captureTakesImage : Obligations.CaptureTakesImage := by
  intro s p rest hturn
  refine ⟨capturedImage s, exec_capture_of_turn hturn, ?_⟩
  have hword : ∀ i (hi : i < 74), (capturedImage s)[i] = (imageWords s).getD i 0 := fun i hi => Vector.getElem_ofFn _
  have hheld : ∀ c : Fin 16, (heldBitmap s.levels).getLsbD c.val = s.levels[c].heldMark :=
    bitmap_getLsbD fun c => s.levels[c].heldMark
  have hrecord : ∀ j, j < 16 → wordAt (capturedImage s) (58 + j) = recordWord s.diag.records j := fun j hj => by
    rw [wordAt, capturedImage_get? s (by omega) (imageWords_record s j hj)]
    rfl
  have hlast : (capturedImage s)[73].toNat < 4096 := by
    rw [← wordAt_of_lt, hrecord 15 (by omega)]
    exact recordWord_last s.diag.records
  simp only [hword, imageWords_eq] at hlast ⊢
  refine ⟨rfl, saysStart_startWord s, saysMonitors_monitorWord s, rfl, rfl, rfl, rfl, saysMarks_marksWord s,
    saysIsolation_bitmap s, hheld, fun c => ⟨?_, ?_, ?_⟩, fun i => ?_, hlast⟩
  · exact capturedImage_channel s c (j := 0) (by omega) (by omega) rfl
  · exact capturedImage_channel s c (j := 1) (by omega) (by omega) rfl
  · exact capturedImage_channel s c (j := 2) (by omega) (by omega) rfl
  · rw [hrecord _ (by omega), recordWord_nibble, nibbleAt]
    simp [recordNibble, markAt]

/-! ### The lowest record with a property -/

theorem isLowest_lowestRec (f : Fin 63 → Bool) : IsLowest (lowestRec f) fun i => f i = true := by
  intro i
  rw [lowestRec, List.find?_eq_some_iff_getElem]
  refine and_congr_right fun _ => ⟨?_, fun h => ⟨i.val, by simp, by simp, fun j hj => ?_⟩⟩
  · rintro ⟨k, hk, hki, hbefore⟩ j hj
    have hval : k = i.val := by rw [← hki]; simp
    have := hbefore j.val (by rw [hval]; exact hj)
    simpa using this
  · simpa using h ⟨j, by omega⟩ hj

theorem isLowest_congr {x : Option (Fin 63)} {p q : Fin 63 → Prop} (h : IsLowest x p) (hpq : ∀ i, p i ↔ q i) :
    IsLowest x q := fun i => by rw [h i]; simp only [hpq]

/-! ### CLEAR-FAULTS (R166 to R169) -/

theorem recKind_place (i : Fin 63) : (recKind i).place = i.val / 16 := by
  unfold recKind
  split
  · show 0 = i.val / 16; omega
  · split
    · show 1 = i.val / 16; omega
    · split
      · show 2 = i.val / 16; omega
      · show 3 = i.val / 16; omega

theorem recChannel_val (i : Fin 63) : (recChannel i).val = i.val % 16 := rfl

theorem selected_eq (chan kind : Word) (i : Fin 63) :
    selected chan kind i = (kind.getLsbD (i.val / 16) && chan.getLsbD (i.val % 16)) := by
  rw [selected, recKind_place, recChannel_val]

theorem recKind_bridge_iff (i : Fin 63) : recKind i = .bridge ↔ 48 ≤ i.val := by
  unfold recKind
  split
  · exact iff_of_false nofun (by omega)
  · split
    · exact iff_of_false nofun (by omega)
    · split
      · exact iff_of_false nofun (by omega)
      · exact iff_of_true rfl (by omega)

/-- A record affects a channel by its policy, its channel, and for a pair the channel above (R163). -/
theorem affects_iff (d : Vector Word 33) (i : Fin 63) (c : Fin 16) :
    affects (recPolicy d i) i c = true ↔ Touches d i c := by
  unfold affects Touches
  rw [recPolicy_eq]
  simp only [recChannel_val]
  cases drivePolicy d (i.val % 16) <;> simp [recKind_bridge_iff]

theorem exec_clearFaults_of_turn {s : State} {p : Parcel} {rest : List Parcel} (h : AddressedTurn s .clearFaults p rest) :
    exec .clearFaults s = .next (answered
      { s with
        diag := clearFaultsDiag s.tables.drive.active (p.bodyAt 0) (p.bodyAt 1) s.diag
        thermal := if (p.bodyAt 1).getLsbD 4 then { s.thermal with highest := s.thermal.band } else s.thermal
        supply := if (p.bodyAt 1).getLsbD 5 then { s.supply with lowMark := s.supply.state == .low } else s.supply
        parcels := { s.parcels with history := historyAfter s.parcels.history .clearFaults p.tag .done } }
      p rest .done false []) := by
  refine (runParcel_recorded h rfl clearFaultsRule).trans ?_
  rw [clearFaultsRule_eq]
  rfl

/-- Settles O36: records, then latches by the records so cleared, then the two marks. -/
theorem clearFaultsClearsAndRelatches : Obligations.ClearFaultsClearsAndRelatches := by
  intro s p rest hturn
  refine ⟨p.bodyAt 0, p.bodyAt 1, clearFaultsDiag s.tables.drive.active (p.bodyAt 0) (p.bodyAt 1) s.diag, rfl, rfl, ?_, ?_,
    fun i => ?_, fun c => ?_⟩
  · have hlow : (s.supply.state == .low) = decide (s.supply.state = .low) := by cases s.supply.state <;> rfl
    rw [exec_clearFaults_of_turn hturn, hlow]
  · simp only [clearFaultsDiag]
  · rw [← selected_eq]
    exact clearSelected_record _ _ _ i
  · rw [clearFaultsDiag_latch]
    cases hl : s.diag.latches[c] with
    | none => rfl
    | some r =>
      simp only [latchAfterClear, ← selected_eq]
      cases selected (p.bodyAt 0) (p.bodyAt 1) r with
      | false => rfl
      | true =>
        refine isLowest_congr (isLowest_lowestRec _) fun i => ?_
        rw [Bool.and_eq_true, affects_iff]
        rfl

end Sys2Proof.Machine
end

section
/-! SUPPORT. The notices that join (R132 to R140) in the words of the statements, and the execution of a RESTART (R125 to R127,
R148): which kinds join, what stays pending, and that no record or flag is lost between the changed set and the queue. -/

namespace Sys2Proof.Machine

open Sys2Proof Sys2Proof.Safety

/-! ### The notices of a joining -/

theorem joinedWith_nil (s : State) : joinedWith s [] = s := by
  have hlane : laneAfter s [] = s.ret := by simp [laneAfter, noticesInOrder]
  rw [joinedWith, changedAfter_same s [] (by simp), hlane]

theorem mem_noticesInOrder {s : State} {ks : List NoticeKind} {m : Msg} (h : m ∈ noticesInOrder s ks) :
    ∃ k ∈ ks, m.content = .notice k (noticeSays s k) := by
  cases ks with
  | nil => cases h
  | cons k rest =>
    rcases List.mem_cons.mp h with rfl | h
    · exact ⟨k, List.mem_cons_self, rfl⟩
    · obtain ⟨x, hx, rfl⟩ := List.mem_map.mp h
      exact ⟨x, List.mem_cons_of_mem _ hx, rfl⟩

theorem noticesInOrder_mem {s : State} {ks : List NoticeKind} {k : NoticeKind} (h : k ∈ ks) :
    ∃ m ∈ noticesInOrder s ks, m.content = .notice k (noticeSays s k) := by
  cases ks with
  | nil => cases h
  | cons j rest =>
    rcases List.mem_cons.mp h with rfl | h
    · exact ⟨_, List.mem_cons_self, rfl⟩
    · exact ⟨_, List.mem_cons_of_mem _ (List.mem_map_of_mem h), rfl⟩

theorem noticeKind_of_content {m : Msg} {k : NoticeKind} {body : List Word} (h : m.content = .notice k body) :
    m.noticeKind = some k := by rw [Msg.noticeKind, h]

/-- A kind is among the notices that join exactly when it is one of the kinds that join. -/
theorem exists_noticesInOrder_iff (s : State) (ks : List NoticeKind) (k : NoticeKind) :
    (∃ m ∈ noticesInOrder s ks, m.noticeKind = some k) ↔ k ∈ ks := by
  constructor
  · rintro ⟨m, hm, hk⟩
    obtain ⟨j, hj, hc⟩ := mem_noticesInOrder hm
    rw [noticeKind_of_content hc] at hk
    cases hk
    exact hj
  · intro hk
    obtain ⟨m, hm, hc⟩ := noticesInOrder_mem (s := s) hk
    exact ⟨m, hm, noticeKind_of_content hc⟩

theorem pending_of_joining {s : State} {k : NoticeKind} (h : k ∈ joiningKinds s) : noticePending s k = true := by
  unfold joiningKinds at h
  split at h
  · cases h
  · have := List.mem_filter.mp (List.mem_of_mem_take h)
    exact (Bool.and_eq_true _ _ ▸ this.2).1

/-- Of the flags those stay set whose notice does not join (R137). -/
theorem noticesJoined_pending (s : State) {k : NoticeKind} (hk : k ≠ .fault) :
    noticePending (noticesJoined s) k = (noticePending s k && !(joiningKinds s).contains k) := by
  cases k
  case fault => exact absurd rfl hk
  all_goals rfl

/-- No flag is lost: it stays set, or its notice is among those that join. -/
theorem pending_iff_joined (s : State) {k : NoticeKind} (hk : k ≠ .fault) : noticePending s k = true ↔
    noticePending (noticesJoined s) k = true ∨ ∃ m ∈ noticesInOrder s (joiningKinds s), m.noticeKind = some k := by
  rw [exists_noticesInOrder_iff, noticesJoined_pending s hk]
  by_cases hj : k ∈ joiningKinds s
  · simp [hj, pending_of_joining hj]
  · simp [hj]

/-! ### The changed set -/

theorem mem_listed_changed {s : State} {i : Fin 63} (h : i ∈ listedRecords s) : s.diag.changed[i] = true :=
  (List.mem_filter.mp (List.mem_of_mem_take h)).2

/-- A FAULT notice names the records it lists (R139, R212). -/
theorem faultSays_names (s : State) (i : Fin 63) :
    (∃ w ∈ noticeSays s .fault, w.toNat % 64 = i.val) ↔ i ∈ listedRecords s := by
  have hname : ∀ j : Fin 63, (BitVec.ofNat 16 (j.val + (if s.diag.records[j].state.standing then 256 else 0)
      + if s.diag.records[j].seen then 512 else 0)).toNat % 64 = j.val := fun j => by
    have := j.isLt
    rw [BitVec.toNat_ofNat]
    split <;> split <;> omega
  simp only [noticeSays, List.mem_map, exists_exists_and_eq_and, hname]
  constructor
  · rintro ⟨j, hj, he⟩
    exact Fin.ext he ▸ hj
  · exact fun h => ⟨i, h, rfl⟩

theorem listsRecord_append (a b : List Msg) (i : Fin 63) :
    ListsRecord (a ++ b) i ↔ ListsRecord a i ∨ ListsRecord b i := by
  simp only [ListsRecord, List.mem_append, or_and_right, exists_or]

theorem listsRecord_noticesInOrder (s : State) (ks : List NoticeKind) (i : Fin 63) :
    ListsRecord (noticesInOrder s ks) i ↔ NoticeKind.fault ∈ ks ∧ i ∈ listedRecords s := by
  rw [← faultSays_names]
  constructor
  · rintro ⟨m, hm, body, hc, hw⟩
    obtain ⟨k, hk, hsays⟩ := mem_noticesInOrder hm
    rw [hc] at hsays
    cases hsays
    exact ⟨hk, hw⟩
  · rintro ⟨hk, hw⟩
    obtain ⟨m, hm, hc⟩ := noticesInOrder_mem (s := s) hk
    exact ⟨m, hm, _, hc, hw⟩

theorem noticesJoined_changed (s : State) (i : Fin 63) : (noticesJoined s).diag.changed[i] =
    (s.diag.changed[i] && !((joiningKinds s).contains .fault && (listedRecords s).contains i)) :=
  Vector.getElem_ofFn _

/-- No record is lost: it stays in the changed set, or a FAULT notice that joins lists it (R139). -/
theorem changed_iff_joined (s : State) (i : Fin 63) : s.diag.changed[i] = true ↔
    (noticesJoined s).diag.changed[i] = true ∨ ListsRecord (noticesInOrder s (joiningKinds s)) i := by
  rw [listsRecord_noticesInOrder, noticesJoined_changed]
  by_cases hl : NoticeKind.fault ∈ joiningKinds s ∧ i ∈ listedRecords s
  · simp [hl.1, hl.2, mem_listed_changed hl.2]
  · simp only [hl, or_false, Bool.and_eq_true, Bool.not_eq_true', List.contains_iff_mem,
      Bool.eq_false_iff, Ne]
    tauto

/-! ### The kinds that join -/

theorem joiningKinds_none {s : State} (h : s.link.address = 255 ∨ 6 ≤ s.ret.queue.length) : joiningKinds s = [] := by
  rcases h with h | h
  · exact if_pos h
  · unfold joiningKinds
    rw [Nat.sub_eq_zero_of_le h, List.take_zero, ite_self]

theorem noticesJoined_none {s : State} (h : joiningKinds s = []) : noticesJoined s = s := by
  rw [noticesJoined_eq, h, joinedWith_nil]

/-! ### RESTART -/

theorem Rx.unstore_eq (r : Rx) : r.unstore = storingStopped r := by
  cases r
  case parcels sw left pos => cases pos <;> rfl
  all_goals rfl

theorem Rx.inFlight_eq (r : Rx) : r.inFlight = (r != .waitStart && r != .skip) := by
  cases r <;> simp [Rx.inFlight, bne]

theorem cancel_sameContent (t : Tables) (d : SecCode) : SameContent t t.cancel d ∧ t.cancel.frozen d = t.frozen d ∧
    t.cancel.pendingMark d = false := by
  simp only [SameContent, copyWords_false_eq_sec, copyWords_true_eq_sec, gen_eq_sec, frozen_eq_sec, pendingMark_eq_sec]
  rw [Tables.cancel, sec_changeAll]
  exact ⟨⟨rfl, rfl, rfl⟩, rfl, rfl⟩

theorem FaultRec.restart_run (r : FaultRec) : r.restart.run = 0 := by
  unfold FaultRec.restart; split <;> rfl

theorem FaultRec.restart_state (r : FaultRec) : r.restart.state = match r.state with
    | .clear | .suspect => .clear
    | .confirmed | .recovering => .confirmed := by
  rcases r with ⟨state, run, seen⟩
  cases state <;> rfl

/-- What a RESTART leaves before its reply and the notices join (R43, R64, R89, R125, R126, R148, R172, R198, R199, R201). -/
theorem restarted_blocks (s : State) : Restarted s (restartBlocks s) := by
  have e := flushQueue_same s
  constructor
  case link => simp only [restartBlocks, e.link, Rx.unstore_eq, Rx.inFlight_eq]
  case tables => simp only [restartBlocks, e.tables]; exact cancel_sameContent s.tables
  case parcels => simp only [restartBlocks, e.parcels]; cases s.parcels.account <;> rfl
  case levels => intro c; simp [restartBlocks, eachChannel, LevelCh.restart]
  case records =>
    intro i
    rw [restartBlocks_record]
    exact ⟨FaultRec.restart_run _, FaultRec.restart_seen _, FaultRec.restart_state _⟩
  case latches => exact restartBlocks_latches s
  case drive => exact restartBlocks_drive s
  case thermal => exact restartBlocks_thermal s
  case supply => exact restartBlocks_supply s
  case watch => simp only [restartBlocks]
  case lane =>
    rw [restartBlocks_ret]
    exact ⟨e.pass, e.ri, e.ro, e.passCount, e.prevLink, rfl⟩
  case snap => simp only [restartBlocks, e.snap]
  case rest => exact ⟨restartBlocks_pins s, restartBlocks_freeUses s, restartBlocks_pending s⟩

/-- What joins the local reply queue behind a RESTART changes nothing that it says. -/
theorem restarted_of_same {s x y : State} (h : Restarted s x) (e : SameButNotices y x) (hlost : y.ret.lost = false) :
    Restarted s y where
  link := e.link.trans h.link
  tables d := by rw [e.tables]; exact h.tables d
  parcels := e.parcels.trans h.parcels
  levels c := by rw [e.levels]; exact h.levels c
  records i := by rw [e.records]; exact h.records i
  latches := e.latches.trans h.latches
  drive := e.drive.trans h.drive
  thermal := e.thermal.trans h.thermal
  supply := e.supply.trans h.supply
  watch := e.watch.trans h.watch
  lane := by
    obtain ⟨hpass, hri, hro, hcount, hprev, -⟩ := h.lane
    exact ⟨e.pass.trans hpass, e.ri.trans hri, e.ro.trans hro, e.passCount.trans hcount, e.prevLink.trans hprev, hlost⟩
  snap := e.snap.trans h.snap
  rest := by
    obtain ⟨hpins, hfree, hpending⟩ := h.rest
    exact ⟨e.pins.trans hpins, e.freeUses.trans hfree, e.pending.trans hpending⟩

/-- The node after the flush of a RESTART, with the reply that an addressed one owes (R127, R148). -/
def restartFlushed (p : Parcel) (s : State) : State :=
  match p.standing with
  | .addressed => reply p .done false [] (restartBlocks s)
  | .broadcast => restartBlocks s

theorem runRestart_suited {s : State} {p : Parcel} {rest : List Parcel} (h : Turn s p rest)
    (hk : parcelKindOf p.kind = some .restart) (hlen : p.len = 0) : runRestart s = joinNotices (restartFlushed p s) := by
  have hsuits : ParcelKind.restart.suits p.len = true := by rw [hlen]; rfl
  simp only [runRestart, h.head, h.executable, hk, hsuits, and_self, if_true]
  unfold restartFlushed
  cases p.standing <;> rfl

theorem restartFlushed_queue (p : Parcel) (s : State) : (restartFlushed p s).ret.queue = match p.standing with
    | .addressed => [{ source := s.link.address, lost := false, content := .reply p.tag .done false [] }]
    | .broadcast => [] := by
  have haddr : (restartBlocks s).link.address = s.link.address := by rw [(restarted_blocks s).link]
  unfold restartFlushed
  cases p.standing <;> simp [reply, haddr]

theorem restarted_flushed (p : Parcel) (s : State) : Restarted s (restartFlushed p s) := by
  unfold restartFlushed
  cases p.standing with
  | addressed => exact restarted_of_same (restarted_blocks s) (joinMsg_same _ _) rfl
  | broadcast => exact restarted_blocks s

theorem restartFlushed_pending (p : Parcel) (s : State) (k : NoticeKind) :
    noticePending (restartFlushed p s) k = noticePending (flushQueue s) k := by
  rw [← restartBlocks_noticePending]
  unfold restartFlushed
  cases p.standing <;> simp [reply]

theorem restartFlushed_changed (p : Parcel) (s : State) :
    (restartFlushed p s).diag.changed = (flushQueue s).diag.changed := by
  rw [← restartBlocks_changed]
  unfold restartFlushed
  cases p.standing <;> rfl

/-- Only a reply stands in the queue that a RESTART has flushed. -/
theorem restartFlushed_replies {p : Parcel} {s : State} {m : Msg} (h : m ∈ (restartFlushed p s).ret.queue) :
    ∃ tag code rep body, m.content = .reply tag code rep body := by
  rw [restartFlushed_queue] at h
  cases hs : p.standing <;> rw [hs] at h
  · rw [List.mem_singleton.mp h]
    exact ⟨_, _, _, _, rfl⟩
  · cases h

theorem restartFlushed_noKind (p : Parcel) (s : State) (k : NoticeKind) :
    ¬ ∃ m ∈ (restartFlushed p s).ret.queue, m.noticeKind = some k := by
  rintro ⟨m, hm, hk⟩
  obtain ⟨tag, code, rep, body, hc⟩ := restartFlushed_replies hm
  rw [Msg.noticeKind, hc] at hk
  cases hk

theorem restartFlushed_listsNone (p : Parcel) (s : State) (i : Fin 63) : ¬ ListsRecord (restartFlushed p s).ret.queue i := by
  rintro ⟨m, hm, body, hc, -⟩
  obtain ⟨tag, code, rep, body, hr⟩ := restartFlushed_replies hm
  rw [hc] at hr
  cases hr

/-- Settles O37: every block restarts and the queue is flushed; the reply is the first entry; the notices join it, and what
joins and what stays pending is together what was pending or queued. -/
theorem restartRestartsEveryBlock : Obligations.RestartRestartsEveryBlock := by
  intro s p rest hturn hk hlen
  let x := restartFlushed p s
  have hjoin : runRestart s = noticesJoined x := (runRestart_suited hturn hk hlen).trans (joinNotices_eq x)
  have hx : Restarted s x := restarted_flushed p s
  have hlost : (noticesJoined x).ret.lost = false := by
    show (x.ret.lost && _) = false
    rw [hx.lane.2.2.2.2.2, Bool.false_and]
  have hpending : ∀ k, k ≠ .fault →
      (noticePending x k = true ↔ noticePending s k = true ∨ ∃ m ∈ s.ret.queue, m.noticeKind = some k) := fun k hne => by
    rw [restartFlushed_pending, flushQueue_pending_iff s k hne]
  have hchanged : ∀ i : Fin 63, x.diag.changed[i] = true ↔ s.diag.changed[i] = true ∨ ListsRecord s.ret.queue i :=
    fun i => by
      rw [restartFlushed_changed]
      exact flushQueue_changed_iff s i
  refine ⟨noticesJoined x, x, noticesInOrder x (joiningKinds x), (exec_restart_of_turn hturn).trans (congrArg _ hjoin),
    restarted_of_same hx (joinNotices_eq x ▸ joinNotices_same x) hlost, hx, restartFlushed_queue p s, hpending, hchanged,
    rfl, rfl, fun m hm => ?kinds, rfl, fun m hm hlink => ?link, fun k hne => ?flags, fun i => ?records⟩
  case kinds =>
    obtain ⟨k, -, hc⟩ := mem_noticesInOrder hm
    rw [noticeKind_of_content hc]
    rfl
  case link =>
    rcases List.mem_append.mp hm with hm | hm
    · exact absurd ⟨m, hm, hlink⟩ (restartFlushed_noKind p s .link)
    · obtain ⟨k, -, hc⟩ := mem_noticesInOrder hm
      rw [noticeKind_of_content hc] at hlink
      cases hlink
      rw [hc, noticeSays, hx.watch, hx.lane.2.2.2.2.1]
      simp [LinkState.value]
  case flags =>
    rw [← hpending k hne, pending_iff_joined x hne]
    have hqueue : (noticesJoined x).ret.queue = x.ret.queue ++ noticesInOrder x (joiningKinds x) := rfl
    simp only [hqueue, List.mem_append, or_and_right, exists_or, restartFlushed_noKind p s k, false_or, x]
  case records =>
    rw [← hchanged i, changed_iff_joined x i]
    have hqueue : (noticesJoined x).ret.queue = x.ret.queue ++ noticesInOrder x (joiningKinds x) := rfl
    rw [hqueue, listsRecord_append]
    simp only [restartFlushed_listsNone p s i, false_or, x]

end Sys2Proof.Machine
end

section
/-! SUPPORT. The monitors, the link watch and the return lane: which notice joins when only one kind can, and what a thermal
sample, a timer's expiry, a transmission and a message on RI leave (R131 to R147, R174 to R180, R187 to R193). -/

namespace Sys2Proof.Machine

open Sys2Proof Sys2Proof.Safety

/-! ### The one notice that joins -/

/-- The order in which notices join (R137). -/
def noticeOrder : List NoticeKind := [.fault, .thermal, .supply, .link]

theorem joiningKinds_eq {s : State} (h : s.link.address ≠ 255) :
    joiningKinds s = (noticeOrder.filter (waits s)).take (6 - s.ret.queue.length) := if_neg h

theorem waits_eq_false {s : State} {k : NoticeKind} (h : noticePending s k = false) : waits s k = false := by
  rw [waits, h, Bool.false_and]

theorem waits_of_room {s : State} {k : NoticeKind} (hp : noticePending s k = true) (hr : RoomForNotice s k) :
    waits s k = true := by
  obtain ⟨-, -, hnone⟩ := hr
  rw [waits, hp, Bool.true_and, List.all_eq_true]
  exact fun m hm => bne_iff_ne.mpr (hnone m hm)

theorem waits_queued {s : State} {k : NoticeKind} (h : ∃ m ∈ s.ret.queue, m.noticeKind = some k) : waits s k = false := by
  obtain ⟨m, hm, hk⟩ := h
  have : ¬ s.ret.queue.all (fun m => m.noticeKind != some k) = true := fun hall => by
    have := List.all_eq_true.mp hall m hm
    simp [hk] at this
  rw [waits, Bool.eq_false_iff.mpr this, Bool.and_false]

/-- The first kind in the order that waits joins first, where there is room (R137). -/
theorem joiningKinds_first {s : State} {before after : List NoticeKind} {k : NoticeKind}
    (horder : noticeOrder = before ++ k :: after) (hbefore : ∀ x ∈ before, noticePending s x = false)
    (hp : noticePending s k = true) (hr : RoomForNotice s k) :
    joiningKinds s = k :: (after.filter (waits s)).take (5 - s.ret.queue.length) := by
  obtain ⟨haddr, hlen, -⟩ := id hr
  have hnone : before.filter (waits s) = [] := List.filter_eq_nil_iff.mpr fun x hx => by
    rw [waits_eq_false (hbefore x hx)]; exact Bool.false_ne_true
  have hroom : 6 - s.ret.queue.length = (5 - s.ret.queue.length) + 1 := by omega
  rw [joiningKinds_eq haddr, horder, List.filter_append, hnone, List.nil_append,
    List.filter_cons_of_pos (waits_of_room hp hr), hroom, List.take_succ_cons]

theorem noticeOrder_split (k : NoticeKind) : ∃ before after, noticeOrder = before ++ k :: after ∧ k ∉ before ∧ k ∉ after := by
  have hmem : k ∈ noticeOrder := by cases k <;> decide
  obtain ⟨before, after, horder⟩ := List.append_of_mem hmem
  have hnodup : (before ++ k :: after).Nodup := horder ▸ (by decide : noticeOrder.Nodup)
  obtain ⟨-, hcons, hdisjoint⟩ := List.nodup_append.mp hnodup
  exact ⟨before, after, horder, fun h => hdisjoint k h k List.mem_cons_self rfl, (List.nodup_cons.mp hcons).1⟩

theorem joiningKinds_only {s : State} {k : NoticeKind} (ho : OnlyPending s [k]) (hp : noticePending s k = true)
    (hr : RoomForNotice s k) : joiningKinds s = [k] := by
  obtain ⟨before, after, horder, hbefore, hafter⟩ := noticeOrder_split k
  have hother : ∀ {x}, x ≠ k → noticePending s x = false := fun h => ho _ fun hx => h (List.mem_singleton.mp hx)
  have hnone : after.filter (waits s) = [] := List.filter_eq_nil_iff.mpr fun x hx => by
    rw [waits_eq_false (hother fun h => hafter (h ▸ hx))]; exact Bool.false_ne_true
  rw [joiningKinds_first horder (fun x hx => hother fun h => hbefore (h ▸ hx)) hp hr, hnone, List.take_nil]

theorem joiningKinds_of_no_waits {s : State} (h : ∀ k, waits s k = false) : joiningKinds s = [] := by
  have hnone : noticeOrder.filter (waits s) = [] := List.filter_eq_nil_iff.mpr fun k _ => by
    rw [h k]; exact Bool.false_ne_true
  unfold joiningKinds
  split
  · rfl
  · exact (congrArg _ hnone).trans List.take_nil

/-- A kind of which a notice is queued does not join again (R132). -/
theorem joiningKinds_queued {s : State} {k : NoticeKind} (ho : OnlyPending s [k])
    (h : ∃ m ∈ s.ret.queue, m.noticeKind = some k) : joiningKinds s = [] := joiningKinds_of_no_waits fun x => by
  by_cases hx : x = k
  · exact hx ▸ waits_queued h
  · exact waits_eq_false (ho x fun hm => hx (List.mem_singleton.mp hm))

/-- What the notice of one kind that joins leaves on the return lane. -/
theorem laneAfter_one (s : State) (k : NoticeKind) : laneAfter s [k] = { s.ret with
    queue := s.ret.queue ++ [noticeMsg s k (noticeSays s k)]
    lost := false
    thermalFlag := s.ret.thermalFlag && k != .thermal
    supplyFlag := s.ret.supplyFlag && k != .supply
    linkFlag := s.ret.linkFlag && k != .link } := by
  cases k <;> simp [laneAfter, noticesInOrder]

theorem joinNotices_only {s : State} {k : NoticeKind} (h : joiningKinds s = [k]) : joinNotices s = joinedWith s [k] := by
  rw [joinNotices_eq, noticesJoined_eq, h]

/-! ### Thermal samples -/

theorem nearestDegree_near (m : Int) : 1000 * nearestDegree m ≤ m + 500 ∧ m ≤ 1000 * nearestDegree m + 500 := by
  have hdiv := Int.mul_fdiv_add_fmod m 1000
  have hlow := Int.fmod_nonneg_of_pos m (show (0 : Int) < 1000 by decide)
  have hhigh := Int.fmod_lt_of_pos m (show (0 : Int) < 1000 by decide)
  unfold nearestDegree
  dsimp only
  split
  · omega
  · split
    · omega
    · split <;> omega

theorem Band.kept_of_entered {pol : Vector Word 25} {t : Int} {b : Band} (h : b.entered pol t = true) :
    b.kept pol t = true := by
  cases b <;> simp only [Band.entered, Band.kept, decide_eq_true_eq] at h ⊢ <;> omega

/-- The first of the bands, from the highest down, that meets a condition NORMAL meets is the highest that meets it. -/
theorem highestBand {p : Band → Bool} (hp : p .normal = true) : p ((bandsDown.find? p).getD .normal) = true ∧
    ∀ b, p b = true → b.value ≤ ((bandsDown.find? p).getD .normal).value := by
  cases hf : bandsDown.find? p with
  | none =>
    have := List.find?_eq_none.mp hf .normal (by decide)
    exact absurd hp this
  | some x =>
    refine ⟨List.find?_some hf, fun b hb => ?_⟩
    obtain ⟨-, as, bs, hsplit, hnone⟩ := List.find?_eq_some_iff_append.mp hf
    have hbelow : bandsDown.Pairwise fun a b => b.value ≤ a.value := by decide
    have hmem : b ∈ as ++ x :: bs := hsplit ▸ (by cases b <;> decide : b ∈ bandsDown)
    rcases List.mem_append.mp hmem with h | h
    · exact absurd hb (by simpa using hnone b h)
    · rcases List.mem_cons.mp h with rfl | h
      · exact le_rfl
      · rw [hsplit] at hbelow
        exact (List.pairwise_cons.mp (List.pairwise_append.mp hbelow).2.1).1 b h

/-- The band after a sample: up to the highest band entered, or down to the highest one not left (R175). -/
theorem newBand_bounds (pol : Vector Word 25) (t : Int) (cur : Band) :
    (∀ b : Band, b.entered pol t = true → b.value ≤ (newBand pol t cur).value) ∧
    (cur.value < (newBand pol t cur).value → (newBand pol t cur).entered pol t = true) ∧
    ((newBand pol t cur).value ≤ cur.value → (newBand pol t cur).kept pol t = true ∧
      ∀ b : Band, b.value ≤ cur.value → b.kept pol t = true → b.value ≤ (newBand pol t cur).value) := by
  obtain ⟨hrises, hhighest⟩ := highestBand (p := fun b => b.entered pol t) rfl
  obtain ⟨hstays, hlowest⟩ := highestBand (p := fun x => decide (x.value ≤ cur.value) && x.kept pol t)
    (by simp [Band.value, Band.kept])
  by_cases hup : cur.value < (risingBand pol t).value
  · rw [show newBand pol t cur = risingBand pol t from if_pos hup]
    exact ⟨hhighest, fun _ => hrises, fun h => absurd hup (by omega)⟩
  · have hnew : newBand pol t cur = (bandsDown.find? fun x => decide (x.value ≤ cur.value) && x.kept pol t).getD .normal :=
      if_neg hup
    rw [hnew]
    obtain ⟨hle, hkept⟩ := Bool.and_eq_true_iff.mp hstays
    refine ⟨fun b hb => hlowest b ?_, fun h => absurd (of_decide_eq_true hle) (by omega),
      fun _ => ⟨hkept, fun b hb hk => hlowest b (by simp [hb, hk])⟩⟩
    have hb' : b.value ≤ (risingBand pol t).value := hhighest b hb
    simp only [Band.kept_of_entered hb, Bool.and_true, decide_eq_true_eq]
    omega

theorem sampleTemperature_thermal (m : Int) (n : Nat) (s : State) : (sampleTemperature m n s).thermal = thermalAfter m s := by
  rw [sampleTemperature_eq]
  split
  · rfl
  · rw [joinNotices_thermal]; rfl

theorem sampleTemperature_drive_ch (m : Int) (n : Nat) (s : State) (c : Fin 16) :
    (sampleTemperature m n s).drive.ch[c] = { s.drive.ch[c] with
      off := if (thermalAfter m s).band = .critical ∧ s.thermal.band ≠ .critical ∧ s.drive.ch[c].off = .clear then .cutAt n
        else s.drive.ch[c].off } := by
  have hdrive : (sampleTemperature m n s).drive =
      if (thermalAfter m s).band = .critical ∧ s.thermal.band ≠ .critical then cutOutputs n s.drive else s.drive :=
    sampleTemperature_drive m n s
  rw [hdrive]
  by_cases hcut : (thermalAfter m s).band = .critical ∧ s.thermal.band ≠ .critical
  · rw [if_pos hcut, cutOutputs_ch]
    obtain ⟨hnew, hold⟩ := hcut
    cases hoff : s.drive.ch[c].off <;> simp [hnew, hold]
  · rw [if_neg hcut, if_neg fun h => hcut ⟨h.1, h.2.1⟩]

/-- Settles O47: the nearest degree, the highest band in the order down from CRITICAL, and the cut at an entry into CRITICAL. -/
theorem thermalSampleMovesBand : Obligations.ThermalSampleMovesBand := by
  intro s m n hup
  have hnear := nearestDegree_near m
  have hreading : readingOf m = max (-40) (min 200 (nearestDegree m)) := rfl
  obtain ⟨hentered, hup', hdown⟩ := newBand_bounds s.tables.policy.active (readingOf m) s.thermal.band
  have hrate : (sampleTemperature m n s).drive.running = s.drive.running ∧
      (sampleTemperature m n s).drive.rate = s.drive.rate := by
    rw [sampleTemperature_drive]; split <;> exact ⟨rfl, rfl⟩
  obtain ⟨hrecords, hlatches⟩ := sampleTemperature_diag m n s
  refine ⟨sampleTemperature m n s, readingOf m, _, whenUp_of_up hup _, rfl, by omega, by omega, by omega, by omega,
    fun _ _ => by omega, ?reading, ?entered, ?rises, ?falls, ?highest, fun h => ?same, fun c => ?cut, hrate.1, hrate.2,
    by simp, by simp, by simp, by simp, by simp, by simp, by simp, hrecords, hlatches⟩
  all_goals rw [sampleTemperature_thermal] at *
  case reading => rfl
  case entered => exact hentered
  case rises => exact hup'
  case falls => exact hdown
  case highest => exact Band.max_value _ _
  case same => rw [sampleTemperature_eq, if_pos h]
  case cut => exact sampleTemperature_drive_ch m n s c

/-! ### The RO arbiter -/

theorem startTransmission_idle {s : State} (h : s.ret.ro.isSome = true ∨ s.link.flowIn = .hold ∨
    (s.ret.pass = [] ∧ s.ret.queue = [])) : startTransmission s = s := by
  unfold startTransmission
  split
  · rfl
  · next hfree =>
    have hboth : s.ret.pass = [] ∧ s.ret.queue = [] := by tauto
    have hnothing : arbiterChoice s.ret = .nothing := by rw [arbiterChoice, hboth.1, hboth.2]
    rw [hnothing]

theorem arbiterChoice_local {r : Ret} {m : Msg} {rest : List Msg} (hq : r.queue = m :: rest)
    (h : r.pass = [] ∨ r.passCount = 3) : arbiterChoice r = .localHead m rest := by
  cases hp : r.pass with
  | nil => rw [arbiterChoice, hp, hq]
  | cons ws t =>
    have hcount : r.passCount = 3 := h.resolve_left (hp ▸ List.cons_ne_nil _ _)
    rw [arbiterChoice, hp, hq]
    exact if_pos hcount

theorem arbiterChoice_passHead {r : Ret} {ws : List Word} {rest : List (List Word)} (hp : r.pass = ws :: rest)
    (h : r.queue = [] ∨ r.passCount ≠ 3) : arbiterChoice r = .passHead ws rest := by
  cases hq : r.queue with
  | nil => rw [arbiterChoice, hp, hq]
  | cons m t =>
    have hcount : r.passCount ≠ 3 := h.resolve_left (hq ▸ List.cons_ne_nil _ _)
    rw [arbiterChoice, hp, hq]
    exact if_neg hcount

/-- The node while it sends the head of its local queue, before the notices join (R145). -/
def localSent (m : Msg) (rest : List Msg) (s : State) : State :=
  { s with ret := { s.ret with queue := rest, ro := some (m.words ++ [crcOf m.words]), passCount := 0 } }

theorem startTransmission_free {s : State} (hro : s.ret.ro = none) (hgo : s.link.flowIn = .go) :
    ¬ (s.ret.ro.isSome = true ∨ s.link.flowIn = .hold) := by simp [hro, hgo]

theorem startTransmission_local {s : State} {m : Msg} {rest : List Msg} (hro : s.ret.ro = none) (hgo : s.link.flowIn = .go)
    (hq : s.ret.queue = m :: rest) (h : s.ret.pass = [] ∨ s.ret.passCount = 3) :
    startTransmission s = joinNotices (localSent m rest s) := by
  rw [startTransmission, if_neg (startTransmission_free hro hgo), arbiterChoice_local hq h]
  rfl

/-- A change of occupancy sends the flow state asked for between sweeps, when it is another one (R45, R143). -/
theorem sendFlowChange_eq (before : Flow) (s : State) : sendFlowChange before s =
    if s.asked ≠ before ∧ (s.link.rx = .waitStart ∨ s.link.rx = .skip) then
      { s with link := queued s.link [.flow s.asked] } else s := by
  unfold sendFlowChange
  by_cases h : s.asked = before ∨ s.link.rx.inFlight = true
  · rw [if_pos h, if_neg]
    rintro ⟨hasked, hrx⟩
    rw [← Rx.inFlight_eq_false_iff] at hrx
    simp [hasked, hrx] at h
  · obtain ⟨hasked, hrx⟩ := not_or.mp h
    have hrx' := Bool.eq_false_iff.mpr hrx
    rw [if_neg h, if_pos ⟨hasked, (Rx.inFlight_eq_false_iff _).mp hrx'⟩, push_queued hrx']

theorem startTransmission_pass {s : State} {ws : List Word} {rest : List (List Word)} (hro : s.ret.ro = none)
    (hgo : s.link.flowIn = .go) (hp : s.ret.pass = ws :: rest) (h : s.ret.queue = [] ∨ s.ret.passCount ≠ 3) :
    startTransmission s = { s with
      ret := { s.ret with
        pass := rest, ro := some ws, passCount := if s.ret.passCount < 3 then s.ret.passCount + 1 else 3 }
      link := if rest.length = 1 ∧ (s.link.rx = .waitStart ∨ s.link.rx = .skip) then queued s.link [.flow .go]
        else s.link } := by
  rw [startTransmission, if_neg (startTransmission_free hro hgo), arbiterChoice_passHead hp h]
  dsimp only
  rw [sendFlowChange_eq]
  have hasked : askedFor rest.length ≠ askedFor (rest.length + 1) ↔ rest.length = 1 := by
    unfold askedFor; split <;> split <;> simp <;> omega
  simp only [State.asked, hp, List.length_cons, hasked]
  by_cases hc : rest.length = 1 ∧ (s.link.rx = .waitStart ∨ s.link.rx = .skip)
  · rw [if_pos hc, if_pos hc, hc.1]; rfl
  · rw [if_neg hc, if_neg hc]

/-- Settles O50: the arbiter chooses nothing, the head of the pass buffer, or the head of the local queue. -/
theorem transmissionStartAndCompletion : Obligations.TransmissionStartAndCompletion := by
  refine ⟨fun s hup h => ?_, fun s ws rest hup hro hgo hp hq => ?_, fun s m rest hup hro hgo hq hp ho => ?_,
    fun s hup => whenUp_of_up hup _⟩
  · exact (whenUp_of_up hup _).trans (congrArg _ (startTransmission_idle h))
  · exact (whenUp_of_up hup _).trans (congrArg _ (startTransmission_pass hro hgo hp hq))
  · have hnone : joiningKinds (localSent m rest s) = [] := joiningKinds_of_no_waits fun k => waits_eq_false <|
      (noticePending_congr rfl rfl rfl rfl k).trans (ho k List.not_mem_nil)
    have hsent : startTransmission s = localSent m rest s := by
      rw [startTransmission_local hro hgo hq hp, joinNotices_eq, noticesJoined_none hnone]
    exact (whenUp_of_up hup _).trans (congrArg _ hsent)

/-! ### Notices at a band change and at a transmission -/

theorem whenUp_next {s t : State} {f : State → State} (hup : Up s) (he : whenUp s f = .next t) : f s = t := by
  rw [whenUp_of_up hup] at he
  cases he
  rfl

theorem noticeMsg_localSent (m : Msg) (rest : List Msg) (s : State) (k : NoticeKind) :
    noticeMsg (localSent m rest s) k (noticeSays (localSent m rest s) k) = noticeMsg s k (noticeSays s k) := by
  cases k <;> rfl

theorem localSent_pending (m : Msg) (rest : List Msg) (s : State) (k : NoticeKind) :
    noticePending (localSent m rest s) k = noticePending s k := noticePending_congr rfl rfl rfl rfl k

theorem bandChanged_pending (m : Int) (n : Nat) (s : State) {k : NoticeKind} (hk : k ≠ .thermal) :
    noticePending (bandChanged m n s) k = noticePending s k := by
  cases k
  case thermal => exact absurd rfl hk
  all_goals rfl

theorem bandChanged_only {m : Int} {n : Nat} {s : State} (h : OnlyPending s [.thermal]) :
    OnlyPending (bandChanged m n s) [.thermal] := fun k hk =>
  (bandChanged_pending m n s fun e => hk (List.mem_singleton.mpr e)).trans (h k hk)

/-- A sample that changes the band leaves the changed state with its notices joined. -/
theorem sampleTemperature_changed {m : Int} {n : Nat} {s : State} (h : (thermalAfter m s).band ≠ s.thermal.band) :
    sampleTemperature m n s = joinNotices (bandChanged m n s) := by rw [sampleTemperature_eq, if_neg h]

/-- Settles O48: both events lead to a state in which the notices join, and the kinds that wait there say which. -/
theorem noticesJoinAtOnceAndInOrder : Obligations.NoticesJoinAtOnceAndInOrder := by
  refine ⟨fun s t m n hup he hband => ?band, fun s m rest hup hro hgo hp hq => ?sent,
    fun s m rest before k after hup hro hgo hp hq hlen haddr hnone horder hbefore hk => ?first,
    fun s k m rest hup hro hgo hp hq hlen haddr hnone ho hk => ?only⟩
  case band =>
    obtain rfl : sampleTemperature m n s = t := whenUp_next hup he
    rw [sampleTemperature_thermal] at hband ⊢
    rw [sampleTemperature_changed hband, joinNotices_drive]
    have hjoin := joinNotices_eq (bandChanged m n s)
    have hstays : joiningKinds (bandChanged m n s) = [] →
        (joinNotices (bandChanged m n s)).ret = { s.ret with thermalFlag := true } := fun h => by
      rw [hjoin, noticesJoined_none h]; rfl
    refine ⟨hjoin, fun hr ho => ?_, fun h => ?_⟩
    · rw [joinNotices_only (joiningKinds_only (bandChanged_only ho) rfl hr)]
      refine (laneAfter_one _ _).trans ?_
      simp [bandChanged, noticeMsg, noticeSays]
    · rcases h with h | h | ⟨h, ho⟩
      · exact hstays (joiningKinds_none (.inl h))
      · exact hstays (joiningKinds_none (.inr h))
      · exact hstays (joiningKinds_queued (bandChanged_only ho) h)
  case sent =>
    refine (whenUp_of_up hup _).trans (congrArg _ ?_)
    rw [startTransmission_local hro hgo hq hp, joinNotices_eq]
    rfl
  case first =>
    have hroom : RoomForNotice (localSent m rest s) k :=
      ⟨haddr, show rest.length < 6 by omega, fun x hx => by rw [hnone x hx]; exact nofun⟩
    have hkinds : joiningKinds (localSent m rest s) = [k] := by
      rw [joiningKinds_first horder (fun x hx => (localSent_pending m rest s x).trans (hbefore x hx))
        ((localSent_pending m rest s k).trans hk) hroom,
        show 5 - (localSent m rest s).ret.queue.length = 0 from by rw [show (localSent m rest s).ret.queue = rest from rfl, hlen],
        List.take_zero]
    have hnodup : k ∉ after := by
      have hall : (before ++ k :: after).Nodup := horder ▸ (by decide : noticeOrder.Nodup)
      exact (List.nodup_cons.mp (List.nodup_append.mp hall).2.1).1
    refine ⟨joinedWith (localSent m rest s) [k], (whenUp_of_up hup _).trans (congrArg _ ?_), ?_, ?_, fun x hx => ?_⟩
    · rw [startTransmission_local hro hgo hq (.inl hp), joinNotices_only hkinds]
    · rw [← noticeMsg_localSent m rest s k]
      exact congrArg Ret.queue (laneAfter_one _ _)
    · exact congrArg Ret.lost (laneAfter_one _ _)
    · rw [joinedWith_pending _ _ _ fun h => hnodup ((List.mem_singleton.mp h : x = k) ▸ hx), localSent_pending]
  case only =>
    have hroom : RoomForNotice (localSent m rest s) k := ⟨haddr, hlen, hnone⟩
    have hkinds : joiningKinds (localSent m rest s) = [k] :=
      joiningKinds_only (fun x hx => (localSent_pending m rest s x).trans (ho x hx))
        ((localSent_pending m rest s k).trans hk) hroom
    refine ⟨joinedWith (localSent m rest s) [k], (whenUp_of_up hup _).trans (congrArg _ ?_), ?_, ?_, ?_⟩
    · rw [startTransmission_local hro hgo hq (.inl hp), joinNotices_only hkinds]
    · rw [← noticeMsg_localSent m rest s k]
      exact congrArg Ret.queue (laneAfter_one _ _)
    · exact congrArg Ret.lost (laneAfter_one _ _)
    · cases k with
      | fault =>
        intro i
        have hi : (joinedWith (localSent m rest s) [.fault]).diag.changed[i] =
            (s.diag.changed[i] && !(listedRecords s).contains i) := Vector.getElem_ofFn _
        rw [hi]
        simp
      | thermal => exact (congrArg Ret.thermalFlag (laneAfter_one _ _)).trans (Bool.and_false _)
      | supply => exact (congrArg Ret.supplyFlag (laneAfter_one _ _)).trans (Bool.and_false _)
      | link => exact (congrArg Ret.linkFlag (laneAfter_one _ _)).trans (Bool.and_false _)

/-! ### The link watch -/

/-- A node whose link watch fell into FALLBACK or became LIVE again, with its LINK flag set, before the notices join. -/
def linkRaised (w : Watch) (left : LinkState) (s : State) : State := setLinkFlag left { s with watch := w }

theorem linkRaised_only {w : Watch} {left : LinkState} {s : State} (h : OnlyPending s [.link]) :
    OnlyPending (linkRaised w left s) [.link] := fun k hk => by
  cases k
  case link => exact absurd (List.mem_singleton.mpr rfl) hk
  all_goals exact h _ hk

theorem linkRaised_joined {w : Watch} {left : LinkState} {s : State} (hr : RoomForNotice s .link)
    (ho : OnlyPending s [.link]) : (joinNotices (linkRaised w left s)).ret = { s.ret with
      queue := s.ret.queue ++ [noticeMsg s .link [BitVec.ofNat 16 (w.state.value + 16 * left.value)]]
      lost := false
      linkFlag := false
      prevLink := left } := by
  rw [joinNotices_only (s := linkRaised w left s) (joiningKinds_only (linkRaised_only ho) rfl hr)]
  refine (laneAfter_one _ _).trans ?_
  simp [linkRaised, noticeMsg, noticeSays]

theorem linkRaised_waits {w : Watch} {left : LinkState} {s : State} (h : s.link.address = 255 ∨ 6 ≤ s.ret.queue.length) :
    (joinNotices (linkRaised w left s)).ret = { s.ret with linkFlag := true, prevLink := left } := by
  rw [joinNotices_eq, noticesJoined_none (s := linkRaised w left s) (joiningKinds_none h)]
  rfl

/-- FALLBACK with both timers stopped (R192, R193). -/
def fallenBack : Watch := { state := .fallback, watchTimer := none, holdTimer := none }

/-- The expiry of a timer that ends in FALLBACK (R192, R193). -/
theorem exec_fallback {s : State} {c : Instr} {left : LinkState} (hup : Up s)
    (h : (c = .watchExpiry ∧ left = .live ∧ s.watch.watchTimer.isSome = true ∧ polH s.tables.policy.active = 0) ∨
      (c = .holdoverExpiry ∧ left = .holdover ∧ s.watch.holdTimer.isSome = true)) (hs : s.watch.state = left) :
    exec c s = .next (joinNotices (linkRaised fallenBack left s)) := by
  rcases h with ⟨rfl, rfl, htimer, hH⟩ | ⟨rfl, rfl, htimer⟩
  · rw [exec_watchExpiry, whenUp_of_up hup, if_pos ⟨hs, htimer⟩]
    exact congrArg _ (if_pos hH)
  · rw [exec_holdoverExpiry, whenUp_of_up hup, if_pos ⟨hs, htimer⟩]
    rfl

/-- Settles O49: the watch expiry goes to HOLDOVER by itself; both ways into FALLBACK raise the LINK flag and let the notices
join. -/
theorem timerExpiries : Obligations.TimerExpiries := by
  constructor
  · intro s hup hlive htimer hH
    rw [exec_watchExpiry, whenUp_of_up hup, if_pos ⟨hlive, htimer⟩]
    exact congrArg _ (if_neg hH)
  · intro s c left hup hc hs
    have e : SameButNotices (joinNotices (linkRaised fallenBack left s)) (linkRaised fallenBack left s) := joinNotices_same _
    refine ⟨_, exec_fallback hup hc hs, e.watch, linkRaised_joined, linkRaised_waits, ?_, e.link, e.tables, e.parcels,
      e.levels, e.drive, e.thermal, e.supply, e.snap⟩
    rw [e.watch, joinNotices_eq]
    rfl

/-! ### Messages on RI -/

/-- A message on RI that can be accepted: three header words, the body words that header word 2 counts, at most 64, and a
matching check word (R141, R146). -/
def WellFormed (ws : List Word) : Prop := ∃ h0 h1 n body, ws = [h0, h1, n] ++ body ++ [crcOf ([h0, h1, n] ++ body)] ∧
  n.toNat ≤ 64 ∧ body.length = n.toNat

theorem messageAccepted_iff (ws : List Word) : messageAccepted ws = true ↔ WellFormed ws := by
  constructor
  · intro h
    match ws with
    | h0 :: h1 :: n :: rest =>
      simp only [messageAccepted, Bool.and_eq_true, decide_eq_true_eq, beq_iff_eq] at h
      obtain ⟨⟨hn, hlen⟩, hlast⟩ := h
      obtain ⟨body, hrest⟩ := List.getLast?_eq_some_iff.mp hlast
      have hbody : (h0 :: h1 :: n :: rest).dropLast = [h0, h1, n] ++ body := by
        rw [hrest]
        exact List.dropLast_concat (l₁ := h0 :: h1 :: n :: body)
      rw [hbody] at hrest
      refine ⟨h0, h1, n, body, by rw [hrest]; rfl, hn, ?_⟩
      rw [hrest, List.length_append, List.length_singleton] at hlen
      omega
    | [] | [_] | [_, _] => cases h
  · rintro ⟨h0, h1, n, body, rfl, hn, hlen⟩
    have hdrop : (h0 :: h1 :: n :: (body ++ [crcOf ([h0, h1, n] ++ body)])).dropLast = [h0, h1, n] ++ body :=
      List.dropLast_concat (l₁ := h0 :: h1 :: n :: body)
    show messageAccepted (h0 :: h1 :: n :: (body ++ [crcOf ([h0, h1, n] ++ body)])) = true
    simp only [messageAccepted, hdrop]
    simp [hn, hlen]

theorem endOnRi_arriving {s : State} (hri : s.ret.ri = .arriving) (ws : List Word) : endOnRi ws s =
    if messageAccepted ws then
      { s with
        ret := { s.ret with ri := .idle, pass := s.ret.pass ++ [ws] }
        link := if s.ret.pass.length = 1 ∧ (s.link.rx = .waitStart ∨ s.link.rx = .skip) then queued s.link [.flow .hold]
          else s.link }
    else { s with ret := { s.ret with ri := .idle, lost := true } } := by
  rw [endOnRi, hri]
  dsimp only
  rw [sendFlowChange_eq]
  have hasked : askedFor (s.ret.pass.length + 1) ≠ askedFor s.ret.pass.length ↔ s.ret.pass.length = 1 := by
    unfold askedFor; split <;> split <;> simp <;> omega
  simp only [State.asked, List.length_append, List.length_singleton, hasked]
  by_cases hc : s.ret.pass.length = 1 ∧ (s.link.rx = .waitStart ∨ s.link.rx = .skip)
  · rw [if_pos hc, if_pos hc, hc.1]; rfl
  · rw [if_neg hc, if_neg hc]

theorem endOnRi_placeless {s : State} (hri : s.ret.ri ≠ .arriving) (ws : List Word) :
    endOnRi ws s = { s with ret := { s.ret with ri := .idle } } := by
  unfold endOnRi
  split
  · next h => rw [← h]
  · rfl
  · next h => exact absurd h hri

/-- What this node sends a receiver of the same kind accepts (R131, R146). -/
theorem wellFormed_sent {m : Msg}
    (h : (match m.content with | .reply _ _ _ body => body.length | .notice _ body => body.length) ≤ 64) :
    WellFormed (m.words ++ [crcOf m.words]) := by
  have hframe : ∀ (h0 h1 : Word) (body : List Word), body.length ≤ 64 →
      WellFormed (h0 :: h1 :: wordOf body.length :: body ++ [crcOf (h0 :: h1 :: wordOf body.length :: body)]) :=
    fun h0 h1 body hbody => by
      have hlen : (wordOf body.length).toNat = body.length := wordOf_toNat (by omega)
      exact ⟨h0, h1, wordOf body.length, body, rfl, by rw [hlen]; exact hbody, hlen.symm⟩
  unfold Msg.words
  cases hc : m.content <;> rw [hc] at h <;> exact hframe _ _ _ h

/-- Settles O51: START on RI gives the place, END keeps a well-formed message that has one, and what a node sends is well
formed. -/
theorem returnMessagesReceived : Obligations.ReturnMessagesReceived := by
  refine ⟨fun s hup => (whenUp_of_up hup _).trans (congrArg _ ?start), fun s ws hup hri => ?arriving,
    fun s ws hup hri => (whenUp_of_up hup _).trans (congrArg _ (endOnRi_placeless hri ws)),
    fun m hm => (messageAccepted_iff _).mpr (wellFormed_sent hm)⟩
  case start =>
    rw [← startOnRi_ret]
    unfold startOnRi
    dsimp only
    (repeat' split) <;> rfl
  case arriving =>
    refine ⟨WellFormed ws, Iff.rfl, fun h => ?_, fun h => ?_⟩
    · refine (whenUp_of_up hup _).trans (congrArg _ ?_)
      rw [endOnRi_arriving hri, if_pos ((messageAccepted_iff ws).mpr h)]
    · refine (whenUp_of_up hup _).trans (congrArg _ ?_)
      rw [endOnRi_arriving hri, if_neg fun ha => h ((messageAccepted_iff ws).mp ha)]

end Sys2Proof.Machine
end

section
/-! SUPPORT. The completion of a cycle as one step (R136, R137, R151, R159 to R165, R182, R183): what the samples do to records,
latches and the changed set, and when the notices join. -/

namespace Sys2Proof.Machine

open Sys2Proof Sys2Proof.Safety

theorem confirmsAt_iff (s : State) (obs : CycleObs) (i : Fin 63) :
    s.confirmsAt obs i = true ↔ Confirmed s.diag.records[i] (s.sampled obs i) := by
  simp [State.confirmsAt, confirms, Confirmed]

theorem recovers_iff (a b : FaultRec) : recovers a.state b.state = true ↔ Recovered a b := by
  simp [recovers, Recovered]

theorem joinsAt_iff (s : State) (obs : CycleObs) (i : Fin 63) : s.joinsAt obs i = true ↔
    drivePolicy s.tables.drive.active (i.val % 16) ≠ .quiet ∧
      (Confirmed s.diag.records[i] (s.sampled obs i) ∨ Recovered s.diag.records[i] (s.sampled obs i)) := by
  rw [State.joinsAt, Bool.and_eq_true, Bool.or_eq_true, confirmsAt_iff, recovers_iff, bne_iff_ne, recPolicy_eq]
  exact and_comm

/-- Confirmation and recovery read the state of a record alone. -/
theorem confirmed_completed (obs : CycleObs) (s : State) (i : Fin 63) :
    Confirmed s.diag.records[i] (completeCycle obs s).diag.records[i] ↔
      Confirmed s.diag.records[i] (s.sampled obs i) := by
  rw [completeCycle_record]; rfl

theorem recovered_completed (obs : CycleObs) (s : State) (i : Fin 63) :
    Recovered s.diag.records[i] (completeCycle obs s).diag.records[i] ↔
      Recovered s.diag.records[i] (s.sampled obs i) := by
  rw [completeCycle_record]; rfl

theorem diagAfter_changed (s : State) (obs : CycleObs) (i : Fin 63) :
    (s.diagAfter obs).changed[i] = (s.diag.changed[i] || s.joinsAt obs i) := Vector.getElem_ofFn _

/-- A latch that is held stays; an empty one takes the lowest record confirmed that touches its channel (R163, R164). -/
theorem completeCycle_latch (obs : CycleObs) (s : State) (c : Fin 16) :
    match s.diag.latches[c] with
    | some r => (completeCycle obs s).diag.latches[c] = some r
    | none => IsLowest (completeCycle obs s).diag.latches[c] fun i =>
        Confirmed s.diag.records[i] (completeCycle obs s).diag.records[i] ∧ Touches s.tables.drive.active i c := by
  rw [completeCycle_latches, diagAfter_latch]
  cases s.diag.latches[c] with
  | some r => rfl
  | none =>
    refine isLowest_congr (isLowest_lowestRec _) fun i => ?_
    rw [Bool.and_eq_true, confirmsAt_iff, affects_iff, confirmed_completed]

theorem supplyPoints_eq (pol : Vector Word 25) (vls : Nat) : supplyPoints pol vls =
    if vls < [3000, 4500, 6000, 7500].getD (polSupply pol) 0 then .low else .ok := by
  have hcode : polSupply pol < 4 := Nat.mod_lt _ (by decide)
  unfold supplyPoints supplyThreshold
  interval_cases polSupply pol <;> rfl

theorem evaluateSupply_eq (p : SupplyState) (x : Supply) : evaluateSupply p x =
    if p = x.state then { x with agree := 0 }
    else if x.agree = 0 then { x with agree := 1 }
    else { state := p, agree := 0, lowMark := x.lowMark || p = .low } := by
  unfold evaluateSupply
  by_cases h : x.agree = 0
  · simp [h]
  · have hsecond : ¬ x.agree + 1 < 2 := by omega
    rw [if_neg h, if_neg hsecond]
    cases p <;> rfl

theorem completeCycle_supply (obs : CycleObs) (s : State) :
    (completeCycle obs s).supply = (cycleEvaluated obs s).supply := by
  rw [completeCycle_eq]
  split
  · rw [joinNotices_supply]
  · rfl

theorem cycleEvaluated_ret (obs : CycleObs) (s : State) : (cycleEvaluated obs s).ret = { s.ret with
    supplyFlag := s.ret.supplyFlag || decide ((cycleEvaluated obs s).supply.state ≠ s.supply.state) } := by
  have hne : ∀ a b : SupplyState, (a != b) = decide (a ≠ b) := fun a b => by cases a <;> cases b <;> rfl
  rw [← hne]
  rfl

/-- The blocks a cycle completion has set before its notices join, and those it leaves to them. -/
theorem completeCycle_same (obs : CycleObs) (s : State) :
    SameButNotices (completeCycle obs s) (cycleEvaluated obs s) := by
  rw [completeCycle_eq]
  split
  · exact joinNotices_same _
  · exact .refl _

/-- The notices join exactly when the supply changed or a record joined the changed set (R137). -/
theorem completeCycle_joins {obs : CycleObs} {s : State}
    (h : (cycleEvaluated obs s).supply.state ≠ s.supply.state ∨ ∃ i, s.joinsAt obs i = true) :
    completeCycle obs s = noticesJoined (cycleEvaluated obs s) := by
  rw [completeCycle_eq, if_pos, joinNotices_eq]
  simpa using h

theorem completeCycle_silent {obs : CycleObs} {s : State} (hs : (cycleEvaluated obs s).supply.state = s.supply.state)
    (hj : ∀ i, ¬ s.joinsAt obs i = true) : completeCycle obs s = cycleEvaluated obs s := by
  rw [completeCycle_eq, if_neg]
  simpa [hs] using hj

/-- Every record of the changed set stays there or is listed by a FAULT notice in the queue (R139). -/
theorem completeCycle_keepsChanged (obs : CycleObs) (s : State) {i : Fin 63}
    (h : (cycleEvaluated obs s).diag.changed[i] = true) :
    (completeCycle obs s).diag.changed[i] = true ∨ ListsRecord (completeCycle obs s).ret.queue i := by
  rw [completeCycle_eq]
  split
  · rw [joinNotices_eq]
    refine ((changed_iff_joined _ i).mp h).imp_right fun hl => ?_
    exact (listsRecord_append _ _ i).mpr (.inr hl)
  · exact .inl h

theorem completeCycle_changed (obs : CycleObs) (s : State) {i : Fin 63}
    (h : (completeCycle obs s).diag.changed[i] = true) : (cycleEvaluated obs s).diag.changed[i] = true := by
  rw [completeCycle_eq] at h
  split at h
  · rw [joinNotices_eq] at h
    exact (changed_iff_joined _ i).mpr (.inl h)
  · exact h

/-- Settles O46: the samples and the supply give the state in which the notices join; each clause reads it there. -/
theorem cycleCompletion : Obligations.CycleCompletion := by
  intro s obs hup hrun
  have e := completeCycle_same obs s
  have hchanged : ∀ i : Fin 63, (cycleEvaluated obs s).diag.changed[i] = true ↔
      s.diag.changed[i] = true ∨ s.joinsAt obs i = true := fun i => by
    rw [show (cycleEvaluated obs s).diag.changed[i] = _ from diagAfter_changed s obs i, Bool.or_eq_true]
  have hsupply := completeCycle_supply obs s
  refine ⟨completeCycle obs s, cycleEvaluated obs s, supplyPoints s.tables.policy.active obs.vlsEnd,
    fun i => s.joinsAt obs i = true, exec_cycleCompletion_of_running hup hrun obs,
    fun i => ⟨s.sampled obs i, rfl, ?state, ?run, ?seen, fun h => ?kept, fun h => ?only⟩, completeCycle_latch obs s,
    supplyPoints_eq _ _, hsupply.trans (evaluateSupply_eq _ _), e.drive, e.link, e.tables, e.parcels, e.levels, e.thermal,
    e.watch, e.snap, e.pins, e.pass, e.ro, e.passCount, fun i => ?joins, e.records.symm, e.latches.symm, hchanged,
    ?raised, fun h => ?joined, fun hs hj => ?silent⟩
  case state => rw [completeCycle_record]
  case run => rw [completeCycle_record]
  case seen => rw [completeCycle_record, Bool.or_eq_true, confirmsAt_iff]
  case kept => exact completeCycle_keepsChanged obs s ((hchanged i).mpr (h.imp_right (joinsAt_iff s obs i).mpr))
  case only => exact ((hchanged i).mp (completeCycle_changed obs s h)).imp_right (joinsAt_iff s obs i).mp
  case joins => exact (joinsAt_iff s obs i).trans (by rw [confirmed_completed, recovered_completed])
  case raised =>
    rw [hsupply, e.drive, e.link, e.tables, e.parcels, e.levels, e.thermal, e.watch, e.snap, e.pins, e.freeUses, e.pending,
      ← cycleEvaluated_ret]
  case joined => exact completeCycle_joins (hsupply ▸ h)
  case silent =>
    rw [hsupply] at hs
    rw [completeCycle_silent hs hj]
    refine ⟨rfl, ?_, ?_⟩
    · rw [cycleEvaluated_ret, hs]; simp
    · ext i hi
      have := diagAfter_changed s obs ⟨i, hi⟩
      rw [Bool.eq_false_iff.mpr (hj ⟨i, hi⟩), Bool.or_false] at this
      exact this

end Sys2Proof.Machine
end

section
/-! SUPPORT. The good sweep end as one step (R34, R35, R41, R42, R51 to R54, R114, R137, R189): its effects, the overflow reply
it owes and the notices that then join. -/

namespace Sys2Proof.Machine

open Sys2Proof Sys2Proof.Safety

/-! ### The effects of a good end -/

/-- The sweep closed on DO with CLEAN before its good end takes effect (R35, R45). -/
def closedClean (s : State) : State := onLink (fun l => (l.close cleanMark s.asked).enter .waitStart) s

theorem exec_diEnd_good {s : State} {sw : Sweep} (hup : Up s) (hrx : s.link.rx = .waitEnd sw true true)
    (hframing : s.link.framingExact = true) (hvoid : s.link.voidMark = false) :
    exec .diEnd s = .next (goodSweepEnd sw (closedClean s)) := by
  rw [exec_diEnd_of_up hup, endOnDi, hrx]
  exact congrArg _ (if_pos (by simp [goodVerdict, hframing, hvoid]))

theorem closedClean_link {s : State} {sw : Sweep} (hrx : s.link.rx = .waitEnd sw true true) :
    (closedClean s).link = { closedWith 0x5AC3 s.asked s.link with rx := .waitStart } := by
  have hfly : s.link.rx.inFlight = true := by rw [hrx]; rfl
  exact congrArg (Link.enter .waitStart) (close_closedWith hfly _ _)

@[simp] theorem closedClean_address (s : State) : (closedClean s).link.address = s.link.address := by
  simp [closedClean, onLink, Link.enter]

theorem takeAddress_eq (sw : Sweep) (l : Link) : takeAddress sw l =
    { l with address := if sw.kind = .enum then sw.enumAddr.getD l.address else l.address } := by
  unfold takeAddress
  cases sw.kind <;> cases sw.enumAddr <;> rfl

theorem refreshes_iff (k : SweepKind) : k.refreshes = true ↔ k = .data ∨ k = .latch := by
  cases k <;> decide

theorem returns_iff (x : LinkState) : x.returns = true ↔ x = .holdover ∨ x = .fallback := by
  cases x <;> decide

theorem levelsAtGoodEnd_channel (k : SweepKind) (hold : Bool) (v : Vector LevelCh 16) (c : Fin 16) :
    (levelsAtGoodEnd k hold v)[c] =
      let l := v[c]
      match k with
      | .data =>
        if l.stagedMark then
          if hold then { l with held := l.staged, heldMark := true, stagedMark := false }
          else { l with active := l.staged, heldMark := false, stagedMark := false }
        else l
      | .latch => if l.heldMark then { l with active := l.held, heldMark := false } else l
      | .manage => l
      | .enum => l := by
  have heach : ∀ f, (eachChannel f v)[c] = f v[c] := fun f => Vector.getElem_ofFn _
  cases k with
  | data =>
    cases hold with
    | false => exact heach _
    | true => exact heach _
  | latch => exact heach _
  | manage => rfl
  | enum => rfl

/-! ### What a good end queues -/

/-- The state in which a good end queues its messages: its effects, and a free choice used when a reply and notices are both
due (R134; log entry 6). -/
def raisedAtEnd (sw : Sweep) (s : State) : State :=
  { goodEffects sw s with
    freeUses := if noticesDue sw s && owesOverflow s.parcels.account then s.freeUses + 1 else s.freeUses }

theorem raisedAtEnd_one {sw : Sweep} {s : State} (h : (noticesDue sw s && owesOverflow s.parcels.account) = false) :
    raisedAtEnd sw s = goodEffects sw s := by
  rw [raisedAtEnd, h, if_neg Bool.false_ne_true, ← goodEffects_freeUses sw s]

theorem raisedAtEnd_both {sw : Sweep} {s : State} (h : (noticesDue sw s && owesOverflow s.parcels.account) = true) :
    raisedAtEnd sw s = { goodEffects sw s with freeUses := (goodEffects sw s).freeUses + 1 } := by
  rw [raisedAtEnd, if_pos h, goodEffects_freeUses]

theorem goodSweepEnd_undue {sw : Sweep} {s : State} (h : noticesDue sw s = false) :
    goodSweepEnd sw s = queueOverflowReply s.parcels.account (raisedAtEnd sw s) := by
  rw [raisedAtEnd_one (by rw [h, Bool.false_and])]
  simp only [goodSweepEnd, h, Bool.false_eq_true, if_false]

theorem goodSweepEnd_noReply {sw : Sweep} {s : State} (hdue : noticesDue sw s = true)
    (h : owesOverflow s.parcels.account = false) : goodSweepEnd sw s = joinNotices (raisedAtEnd sw s) := by
  rw [raisedAtEnd_one (by rw [h, Bool.and_false])]
  simp only [goodSweepEnd, hdue, h, Bool.false_eq_true, if_false, if_true]

/-- Either may join first (R134; log entry 6). -/
theorem goodSweepEnd_replyAndNotices {sw : Sweep} {s : State} (hdue : noticesDue sw s = true)
    (h : owesOverflow s.parcels.account = true) :
    goodSweepEnd sw s = joinNotices (queueOverflowReply s.parcels.account (raisedAtEnd sw s)) ∨
      goodSweepEnd sw s = queueOverflowReply s.parcels.account (joinNotices (raisedAtEnd sw s)) := by
  rw [raisedAtEnd_both (by rw [hdue, h]; rfl)]
  simp only [goodSweepEnd, hdue, h, if_true]
  split
  · exact .inl rfl
  · exact .inr rfl

theorem goodSweepEnd_same (sw : Sweep) (s : State) : SameButNotices (goodSweepEnd sw s) (raisedAtEnd sw s) := by
  cases hdue : noticesDue sw s
  · rw [goodSweepEnd_undue hdue]; exact queueOverflowReply_same _ _
  · cases howes : owesOverflow s.parcels.account
    · rw [goodSweepEnd_noReply hdue howes]; exact joinNotices_same _
    · rcases goodSweepEnd_replyAndNotices hdue howes with e | e <;> rw [e]
      · exact (joinNotices_same _).trans (queueOverflowReply_same _ _)
      · exact (queueOverflowReply_same _ _).trans (joinNotices_same _)

/-- What joins the queue changes the changed set and the lane alone. -/
theorem SameButNotices.restored {t x : State} (e : SameButNotices t x) : x = { t with diag := x.diag, ret := x.ret } := by
  rw [e.link, e.tables, e.parcels, e.levels, e.drive, e.thermal, e.supply, e.watch, e.snap, e.pins, e.freeUses, e.pending]

theorem owesOverflow_eq_false_iff (acct : Option Account) :
    owesOverflow acct = false ↔ ∀ a, acct = some a → a.firstTag = none := by
  cases acct <;> simp [owesOverflow]

theorem queueOverflowReply_none {acct : Option Account} (h : ∀ a, acct = some a → a.firstTag = none) (s : State) :
    queueOverflowReply acct s = s := by
  cases acct with
  | none => rfl
  | some a => simp only [queueOverflowReply, h a rfl]

theorem queueOverflowReply_tag {a : Account} {tag : Byte} (h : a.firstTag = some tag) (s : State) :
    queueOverflowReply (some a) s = overflowReplied tag a.unstored s := by
  simp only [queueOverflowReply, h, overflowReplied]
  by_cases hroom : s.ret.queue.length < 8
  · rw [if_pos hroom]
    exact if_pos hroom
  · rw [if_neg hroom]
    exact if_neg hroom

/-- A sweep end is a return when it refreshes the link watch of a node in HOLDOVER or FALLBACK (R189, R193). -/
def Returns (sw : Sweep) (s : State) : Prop :=
  (sw.kind = .data ∨ sw.kind = .latch) ∧ (s.watch.state = .holdover ∨ s.watch.state = .fallback)

theorem returns_closedClean (sw : Sweep) (s : State) :
    sw.kind.refreshes = true ∧ (closedClean s).watch.state.returns = true ↔ Returns sw s := by
  rw [refreshes_iff, returns_iff]; rfl

theorem noticesDue_iff (sw : Sweep) (s : State) : noticesDue sw (closedClean s) = true ↔
    Returns sw s ∨ (sw.kind = .enum ∧ s.link.address = 255) := by
  rw [noticesDue, Bool.or_eq_true, Bool.and_eq_true, Bool.and_eq_true, returns_closedClean, closedClean_address, beq_iff_eq,
    beq_iff_eq]
  exact or_comm

theorem raisedAtEnd_ret (sw : Sweep) (s : State) : (raisedAtEnd sw (closedClean s)).ret = (goodEffects sw (closedClean s)).ret :=
  rfl

theorem raisedAtEnd_ret_returns {sw : Sweep} {s : State} (h : Returns sw s) :
    (raisedAtEnd sw (closedClean s)).ret = { s.ret with linkFlag := true, prevLink := s.watch.state } := by
  rw [raisedAtEnd_ret, goodEffects_ret, if_pos ((returns_closedClean sw s).mpr h)]
  rfl

theorem raisedAtEnd_ret_stays {sw : Sweep} {s : State} (h : ¬ Returns sw s) :
    (raisedAtEnd sw (closedClean s)).ret = s.ret := by
  rw [raisedAtEnd_ret, goodEffects_ret, if_neg ((returns_closedClean sw s).not.mpr h)]
  rfl

theorem raisedAtEnd_diag (sw : Sweep) (s : State) : (raisedAtEnd sw (closedClean s)).diag = s.diag :=
  goodEffects_diag sw _

/-- A node that gains an address with nothing to report, or that owes nothing, queues nothing (R137). -/
theorem goodSweepEnd_silent {sw : Sweep} {s : State} (htag : ∀ a, s.parcels.account = some a → a.firstTag = none)
    (hstays : ¬ Returns sw s)
    (hnone : sw.kind = .enum → s.link.address = 255 → ∀ k, noticePending s k = false) :
    goodSweepEnd sw (closedClean s) = raisedAtEnd sw (closedClean s) := by
  cases hdue : noticesDue sw (closedClean s)
  · rw [goodSweepEnd_undue hdue]
    exact queueOverflowReply_none htag _
  · obtain ⟨henum, haddr⟩ := ((noticesDue_iff sw s).mp hdue).resolve_left hstays
    have hpending : ∀ k, noticePending (raisedAtEnd sw (closedClean s)) k = noticePending s k :=
      noticePending_congr (congrArg Diag.changed (raisedAtEnd_diag sw s))
        (congrArg Ret.thermalFlag (raisedAtEnd_ret_stays hstays)) (congrArg Ret.supplyFlag (raisedAtEnd_ret_stays hstays))
        (congrArg Ret.linkFlag (raisedAtEnd_ret_stays hstays))
    rw [goodSweepEnd_noReply hdue ((owesOverflow_eq_false_iff _).mpr htag), joinNotices_eq]
    exact noticesJoined_none (joiningKinds_of_no_waits fun k => waits_eq_false <|
      (hpending k).trans (hnone henum haddr k))

/-- Settles O23: the closing, then the effects block by block; what joins the queue leaves all of them alone. -/
theorem Settled.goodSweepEnd : Obligations.GoodSweepEnd := by
  intro s sw hup hrx hframing hvoid
  have e := goodSweepEnd_same sw (closedClean s)
  have hdiag := raisedAtEnd_diag sw s
  have hstores : _ = (closedClean s).ret.stores := goodSweepEnd_stores sw (closedClean s)
  simp only [Ret.stores, Prod.mk.injEq] at hstores
  obtain ⟨hpass, hri, hro, hcount⟩ := hstores
  refine ⟨_, exec_diEnd_good hup hrx hframing hvoid, ?link, goodSweepEnd_parcels sw _, fun c => ?levels, ?watch,
    goodSweepEnd_tables _ _, goodSweepEnd_drive _ _, e.records.trans (congrArg Diag.records hdiag),
    e.latches.trans (congrArg Diag.latches hdiag), goodSweepEnd_thermal _ _, goodSweepEnd_supply _ _,
    goodSweepEnd_snap _ _, goodSweepEnd_pins _ _, hpass, hri, hro, hcount, fun htag hkind hnone => ?silent⟩
  case link =>
    rw [goodSweepEnd_link, takeAddress_eq, closedClean_link hrx]
    rfl
  case levels =>
    rw [goodSweepEnd_levels]
    exact levelsAtGoodEnd_channel sw.kind sw.hold s.levels c
  case watch =>
    rw [goodSweepEnd_watch]
    exact if_congr (refreshes_iff _) rfl rfl
  case silent =>
    have hstays : ¬ Returns sw s := by
      rintro ⟨hdata, hw⟩
      rcases hkind hdata with h | h <;> rw [h] at hw <;> simp at hw
    rw [goodSweepEnd_silent htag hstays hnone]
    exact ⟨raisedAtEnd_ret_stays hstays, hdiag⟩

/-! ### The message of a good end -/

theorem raisedAtEnd_address {sw : Sweep} {s : State} (h : sw.kind ≠ .enum) :
    (raisedAtEnd sw (closedClean s)).link.address = s.link.address := by
  have hlink : (raisedAtEnd sw (closedClean s)).link = _ := goodEffects_link sw (closedClean s)
  rw [hlink, takeAddress_eq, if_neg h, closedClean_address]

theorem Returns.kind_ne_enum {sw : Sweep} {s : State} (h : Returns sw s) : sw.kind ≠ .enum := by
  rcases h.1 with h | h <;> rw [h] <;> exact nofun

theorem raisedAtEnd_watch_returns {sw : Sweep} {s : State} (h : Returns sw s) :
    (raisedAtEnd sw (closedClean s)).watch.state = .live := by
  rw [← (goodSweepEnd_same sw (closedClean s)).watch, goodSweepEnd_watch, if_pos ((refreshes_iff _).mpr h.1)]

theorem raisedAtEnd_only {sw : Sweep} {s : State} (h : Returns sw s) (ho : OnlyPending s [.link]) :
    OnlyPending (raisedAtEnd sw (closedClean s)) [.link] := fun k hk => by
  rw [← ho k hk]
  cases k with
  | fault => simp only [noticePending, raisedAtEnd_diag]
  | thermal => simp only [noticePending, raisedAtEnd_ret_returns h]
  | supply => simp only [noticePending, raisedAtEnd_ret_returns h]
  | link => exact absurd (List.mem_singleton.mpr rfl) hk

/-- The LINK notice of a return that joins alone (R140, R193). -/
theorem returned_joins {sw : Sweep} {s : State} (h : Returns sw s) (hr : RoomForNotice s .link)
    (ho : OnlyPending s [.link]) : (noticesJoined (raisedAtEnd sw (closedClean s))).ret = { s.ret with
      queue := s.ret.queue ++ [noticeMsg s .link [BitVec.ofNat 16 (1 + 16 * s.watch.state.value)]]
      lost := false, linkFlag := false, prevLink := s.watch.state } := by
  have hret := raisedAtEnd_ret_returns h
  have haddr := raisedAtEnd_address (s := s) h.kind_ne_enum
  obtain ⟨hknown, hlen, hnone⟩ := hr
  have hkinds : joiningKinds (raisedAtEnd sw (closedClean s)) = [.link] :=
    joiningKinds_only (raisedAtEnd_only h ho) (congrArg Ret.linkFlag hret)
      ⟨by rw [haddr]; exact hknown, by rw [hret]; exact hlen, by rw [hret]; exact hnone⟩
  rw [noticesJoined_eq, hkinds]
  refine (laneAfter_one _ _).trans ?_
  simp [hret, haddr, noticeMsg, noticeSays, raisedAtEnd_watch_returns h, LinkState.value]

/-- Settles O24: the effects give the state in which the reply and the notices join, the reply alone, the notices alone, or
both in either order. -/
theorem goodEndQueuesItsMessage : Obligations.GoodEndQueuesItsMessage := by
  intro s sw hup hrx hframing hvoid
  have e := goodSweepEnd_same sw (closedClean s)
  have hrestored : raisedAtEnd sw (closedClean s) = { Machine.goodSweepEnd sw (closedClean s) with
      diag := s.diag, ret := (raisedAtEnd sw (closedClean s)).ret } := by
    rw [← raisedAtEnd_diag sw s]; exact e.restored
  have hnoReply : (∀ a, s.parcels.account = some a → a.firstTag = none) →
      Returns sw s ∨ (sw.kind = .enum ∧ s.link.address = 255) →
      Machine.goodSweepEnd sw (closedClean s) = noticesJoined (raisedAtEnd sw (closedClean s)) := fun htag hdue => by
    rw [← joinNotices_eq]
    exact goodSweepEnd_noReply ((noticesDue_iff sw s).mpr hdue) ((owesOverflow_eq_false_iff _).mpr htag)
  refine ⟨_, raisedAtEnd sw (closedClean s), Returns sw s, exec_diEnd_good hup hrx hframing hvoid, Iff.rfl,
    fun h => ⟨?live, ?returned⟩, fun h => ?stayed, fun htag hdue => ?notices,
    fun a tag hacct htag => ⟨fun hundue => ?reply, fun hdue => ?both⟩, fun h htag hroom ho => ?joins,
    fun h htag hfull => ?waits⟩
  case live => rw [e.watch]; exact raisedAtEnd_watch_returns h
  case returned => rw [← raisedAtEnd_ret_returns h]; exact hrestored
  case stayed =>
    refine hrestored.trans ?_
    rw [raisedAtEnd_ret_stays h]
  case notices => rw [hnoReply htag hdue]; exact ⟨rfl, rfl⟩
  case reply =>
    have hdue : noticesDue sw (closedClean s) = false :=
      Bool.eq_false_iff.mpr ((noticesDue_iff sw s).not.mpr hundue)
    rw [goodSweepEnd_undue hdue, show (closedClean s).parcels.account = some a from hacct, queueOverflowReply_tag htag]
    exact ⟨rfl, raisedAtEnd_diag sw s⟩
  case both =>
    have howes : owesOverflow (closedClean s).parcels.account = true := by
      rw [show (closedClean s).parcels.account = some a from hacct, owesOverflow, htag]; rfl
    have heither := goodSweepEnd_replyAndNotices ((noticesDue_iff sw s).mpr hdue) howes
    rw [show (closedClean s).parcels.account = some a from hacct, queueOverflowReply_tag htag, queueOverflowReply_tag htag,
      joinNotices_eq, joinNotices_eq] at heither
    exact ⟨_, heither, rfl, rfl⟩
  case joins => rw [hnoReply htag (.inl h)]; exact returned_joins h hroom ho
  case waits =>
    rw [hnoReply htag (.inl h), noticesJoined_none (joiningKinds_none ?_), raisedAtEnd_ret_returns h]
    rw [raisedAtEnd_address h.kind_ne_enum, raisedAtEnd_ret_returns h]
    exact hfull

end Sys2Proof.Machine
end

section
/-! SUPPORT. Conduction and the samples of the records in the words of the statements (R74 to R81, R151 to R157). -/

namespace Sys2Proof.Machine

open Sys2Proof Sys2Proof.Safety

/-! ### Conduction at a count -/

theorem inWindow_iff (d : DriveCh) (h : d.onTime ≤ 4096) (i : Nat) (hi : i < 4096) : d.inWindow i = true ↔
    (1024 * d.phase.val ≤ i ∧ i < 1024 * d.phase.val + d.onTime) ∨ i + 4096 < 1024 * d.phase.val + d.onTime := by
  have hp := d.phase.isLt
  rw [DriveCh.inWindow, decide_eq_true_eq]
  omega

theorem forcedOff_eq_false_iff (d : DriveCh) (i : Nat) : d.forcedOff i = false ↔ ∀ n, d.offFrom = some n → i < n := by
  unfold DriveCh.forcedOff
  cases d.offFrom <;> simp

theorem conducts_iff (d : DriveCh) (h : d.onTime ≤ 4096) (i : Nat) (hi : i < 4096) :
    d.conducts i = true ↔ ConductsAt d i := by
  rw [DriveCh.conducts, Bool.and_eq_true, Bool.and_eq_true, bne_iff_ne, Bool.not_eq_true', inWindow_iff d h i hi,
    forcedOff_eq_false_iff, ConductsAt, and_assoc, ← and_assoc, ← and_assoc]
  exact and_congr_left' and_comm

/-! ### The runs of a whole cycle -/

theorem meetRuns_nothing (xs : List CountRun) : meetRuns xs [{ lo := 0, hi := 0 }] = [] := by
  induction xs with
  | nil => rfl
  | cons a rest ih =>
    have hmeet : a.meet { lo := 0, hi := 0 } = none := if_neg (by simp)
    rw [meetRuns_cons, hmeet, ih]
    rfl

/-- A channel that never conducts in the cycle is handed no run (R81). -/
theorem onRuns_dark {d : DriveCh} (h : d.code = 0 ∨ d.onTime = 0 ∨ d.off = .fromStart) : d.onRuns = [] := by
  unfold DriveCh.onRuns
  by_cases hc : d.code = 0
  · exact if_pos hc
  · rw [if_neg hc]
    rcases h.resolve_left hc with h | h
    · rw [DriveCh.windowRuns, if_pos h]; rfl
    · rw [DriveCh.openRuns, DriveCh.offFrom, h]
      exact meetRuns_nothing _

/-- A channel at full on-time in a cycle not cut is handed one run of all counts (R81). -/
theorem onRuns_full {d : DriveCh} (ht : d.onTime = 4096) (hc : d.code ≠ 0) (ho : d.off = .clear) :
    d.onRuns = [{ lo := 0, hi := 4096 }] := by
  have hwindow : d.windowRuns = [{ lo := 0, hi := 4096 }] := by simp [DriveCh.windowRuns, ht, cycleCounts]
  have hopen : d.openRuns = [{ lo := 0, hi := 4096 }] := by simp [DriveCh.openRuns, DriveCh.offFrom, ho, cycleCounts]
  rw [DriveCh.onRuns, if_neg hc, hwindow, hopen]
  decide

/-- No conducting run passes the cut (R81). -/
theorem onRuns_cut {d : DriveCh} (h : d.onTime ≤ 4096) {n : Nat} (hcut : d.off = .cutAt n) {r : CountRun}
    (hr : r ∈ d.onRuns) : r.hi ≤ n := by
  obtain ⟨-, hlt, hle⟩ := (onRuns_runsFrom d).lo r hr
  obtain ⟨-, -, hopen⟩ := (onRuns_holds d h (r.hi - 1) (by omega)).mp ⟨r, hr, by omega, by omega⟩
  have := hopen n (by rw [DriveCh.offFrom, hcut])
  omega

/-- Settles O43: counts by `onRuns_holds` and `conducts_iff`, order by `RunsFrom`, and the whole-cycle cases one by one. -/
theorem conductionRuns : Obligations.ConductionRuns := by
  refine ⟨fun d h => ⟨fun i hi => ⟨onRuns_holds d h i hi, offRuns_holds d h i hi⟩, onRuns_length d,
    (onRuns_runsFrom d).pairwise, (offRuns_runsFrom d).pairwise, ?bounds, fun hd => ?dark, fun ht hc ho => ?full, ?uncut,
    fun n hn => ⟨(cutCount_eq_some d n).mpr hn, fun r => onRuns_cut h hn⟩⟩,
    fun s c i hs hi => ⟨?conducts, fun h => if_pos h, fun h => ?dry, fun h => ?unplugged⟩,
    rfl, fun r hr => if_pos hr, fun r hr => ?imax⟩
  case bounds =>
    rintro r (hr | hr)
    · exact ((onRuns_runsFrom d).lo r hr).2
    · exact ((offRuns_runsFrom d).lo r hr).2
  case dark =>
    rw [DriveCh.offRuns, onRuns_dark hd]
    exact ⟨rfl, rfl⟩
  case full =>
    rw [DriveCh.offRuns, onRuns_full ht hc ho]
    exact ⟨rfl, by decide⟩
  case uncut => rintro (h | h) <;> rw [DriveCh.cutCount, h]
  case conducts => rw [State.conducts, Bool.and_eq_true, conducts_iff _ (hs c) i hi]
  case dry => exact if_neg (Bool.eq_false_iff.mp h)
  case unplugged =>
    rw [State.sinkCurrent, (imax_eq_zero _).mpr h]
    simp
  case imax =>
    have hne : (r : Rat) ≠ 0 := Nat.cast_ne_zero.mpr (by omega)
    rw [show imax (some r) = 1200000 / (r : Rat) from if_neg (by omega)]
    exact div_mul_cancel₀ _ hne

/-! ### The window of a count -/

theorem windowAt_le {ws : List ObsWindow} {m n : Nat} {w : ObsWindow} (h : windowAt ws m n = some w) : m ≤ n := by
  induction ws generalizing m with
  | nil => cases h
  | cons x rest ih =>
    unfold windowAt at h
    split at h
    · next hin => exact hin.1
    · have := ih h; omega

/-- A condition is seen in a run exactly when it holds in the window of one of the run's counts. -/
theorem seenIn_iff (ws : List ObsWindow) (m : Nat) (j : CountRun) (cond : ObsWindow → Bool) : seenIn ws m j cond = true ↔
    ∃ n w, Holds j n ∧ windowAt ws m n = some w ∧ cond w = true := by
  induction ws generalizing m with
  | nil => simp [seenIn, windowAt]
  | cons x rest ih =>
    have hmeet : (CountRun.meet { lo := m, hi := m + x.len } j).isSome = true ↔ ∃ n, Holds j n ∧ m ≤ n ∧ n < m + x.len := by
      unfold CountRun.meet Holds
      split
      · next hlt => exact iff_of_true rfl ⟨max m j.lo, by simp only at hlt; omega⟩
      · next hlt => exact iff_of_false nofun fun ⟨n, h⟩ => by simp only at hlt; omega
    rw [seenIn, Bool.or_eq_true, Bool.and_eq_true, hmeet, ih]
    constructor
    · rintro (⟨⟨n, hj, hn⟩, hc⟩ | ⟨n, w, hj, hw, hc⟩)
      · exact ⟨n, x, hj, if_pos hn, hc⟩
      · have := windowAt_le hw
        exact ⟨n, w, hj, (if_neg (by omega)).trans hw, hc⟩
    · rintro ⟨n, w, hj, hw, hc⟩
      unfold windowAt at hw
      split at hw
      · next hn =>
        cases hw
        exact .inl ⟨⟨n, hj, hn⟩, hc⟩
      · exact .inr ⟨n, w, hj, hw, hc⟩

/-! ### The sample of a record -/

/-- The sample of record `i` cannot be taken, whatever its runs (R156, R157). -/
def Masked (s : State) (i : Fin 63) : Prop :=
  polEnable s.tables.policy.active (i.val / 16) = false ∨
  driveMask s.tables.drive.active (i.val % 16) (i.val / 16) = false ∨
  (∃ c : Fin 16, s.drive.ch[c].offFrom.isSome = true) ∨
  (s.supply.state = .low ∧ i.val < 32)

theorem anyForced_iff (d : Drive) : d.anyForced = true ↔ ∃ c : Fin 16, d.ch[c].offFrom.isSome = true := by
  simp only [Drive.anyForced, List.any_eq_true, Vector.mem_toList_iff, Vector.mem_iff_getElem]
  constructor
  · rintro ⟨_, ⟨k, hk, rfl⟩, h⟩
    exact ⟨⟨k, hk⟩, h⟩
  · rintro ⟨c, h⟩
    exact ⟨_, ⟨c.val, c.isLt, rfl⟩, h⟩

theorem recKind_current_iff (i : Fin 63) : (recKind i == .openCircuit || recKind i == .shortHigh) = true ↔ i.val < 32 := by
  unfold recKind
  split
  · simp; omega
  · split
    · simp; omega
    · split <;> simp <;> omega

theorem masked_iff (s : State) (i : Fin 63) : Masked s i ↔
    recEnabled s.tables.policy.active s.tables.drive.active i = false ∨ recUnsound s.drive s.supply.state i = true := by
  rw [recEnabled, recUnsound, Bool.and_eq_false_iff, Bool.or_eq_true, anyForced_iff, Bool.and_eq_true, recKind_current_iff,
    beq_iff_eq, recKind_place, recChannel_val, Masked, or_assoc]

theorem recRuns_eq (d : Drive) (i : Fin 63) : recRuns d i =
    if i.val < 32 then d.ch[recChannel i].onRuns
    else if i.val < 48 then d.ch[recChannel i].offRuns
    else bridgeRuns d (i.val % 16) := by
  unfold recRuns recKind
  by_cases h16 : i.val < 16
  · rw [if_pos h16, if_pos (by omega)]
  · rw [if_neg h16]
    by_cases h32 : i.val < 32
    · rw [if_pos h32, if_pos h32]
    · rw [if_neg h32, if_neg h32]
      by_cases h48 : i.val < 48
      · rw [if_pos h48, if_pos h48]
      · rw [if_neg h48, if_neg h48, recChannel_val]

theorem shortThreshold_eq (pol : Vector Word 25) :
    shortThreshold (polShort pol) = [800, 1200, 1600, 2000].getD (polShort pol) 0 := by
  have hcode : polShort pol < 4 := Nat.mod_lt _ (by decide)
  unfold shortThreshold
  interval_cases polShort pol <;> rfl

theorem recFails_iff (pol : Vector Word 25) (i : Fin 63) (w : ObsWindow) :
    recFails (imax Config.refOhms == 0) pol i w = true ↔ FailingCondition pol i w := by
  have hout : w.out[i.val % 16]?.getD 0 = w.out[recChannel i] := by
    rw [Vector.getElem?_eq_getElem (Nat.mod_lt _ (by decide))]
    rfl
  unfold recFails recKind FailingCondition
  simp only [hout]
  by_cases h16 : i.val < 16
  · rw [if_pos h16, if_pos h16, ← imax_eq_zero, openFails, Bool.or_eq_true, beq_iff_eq, decide_eq_true_eq]
  · rw [if_neg h16, if_neg h16]
    by_cases h32 : i.val < 32
    · rw [if_pos h32, if_pos h32, shortThreshold_eq, shortHighFails, decide_eq_true_eq]
    · rw [if_neg h32, if_neg h32]
      by_cases h48 : i.val < 48
      · rw [if_pos h48, if_pos h48, shortLowFails, decide_eq_true_eq]
      · rw [if_neg h48, if_neg h48, bridgeFails, Bool.and_eq_true, decide_eq_true_eq, decide_eq_true_eq, ← hout]
        rfl

theorem sampleOf_masked {s : State} {i : Fin 63} (h : Masked s i) (obs : CycleObs) : s.sampleOf obs i = .noSample := by
  rcases (masked_iff s i).mp h with he | hu
  · simp only [State.sampleOf, State.sampleAt, he, Bool.not_false, if_true]
  · simp only [State.sampleOf, State.sampleAt, hu, if_true, ite_self]

/-- Where nothing masks it, a record is judged on its qualifying runs (R151). -/
theorem sampleOf_unmasked {s : State} {i : Fin 63} (h : ¬ Masked s i) (obs : CycleObs) : s.sampleOf obs i =
    if (recRuns s.drive i).any CountRun.qualifies = false then .noSample
    else if failsIn obs (recRuns s.drive i) (recFails (imax Config.refOhms == 0) s.tables.policy.active i) then .fail
    else .pass := by
  obtain ⟨he, hu⟩ := not_or.mp ((masked_iff s i).not.mp h)
  rw [Bool.not_eq_false] at he
  simp only [State.sampleOf, State.sampleAt, he, hu, Bool.not_true, Bool.false_eq_true, if_false, Bool.not_eq_true']

theorem any_qualifies_eq_false_iff (runs : List CountRun) :
    runs.any CountRun.qualifies = false ↔ ∀ r ∈ runs, r.hi < r.lo + 64 := by
  simp [CountRun.qualifies]

/-- A failing condition is seen at a count after the first 32 of some run of at least 64 counts (R151). -/
theorem failsIn_iff (obs : CycleObs) (runs : List CountRun) (cond : ObsWindow → Bool) : failsIn obs runs cond = true ↔
    ∃ r ∈ runs, r.lo + 64 ≤ r.hi ∧ ∃ n w, r.lo + 32 ≤ n ∧ n < r.hi ∧ windowAt obs.windows 0 n = some w ∧ cond w = true := by
  simp only [failsIn, List.any_eq_true, Bool.and_eq_true, CountRun.qualifies, decide_eq_true_eq, seenIn_iff, Holds,
    CountRun.judged, and_assoc]

theorem any_qualifies_of_failsIn {obs : CycleObs} {runs : List CountRun} {cond : ObsWindow → Bool}
    (h : failsIn obs runs cond = true) : runs.any CountRun.qualifies = true := by
  obtain ⟨r, hr, hlong, -⟩ := (failsIn_iff obs runs cond).mp h
  exact List.any_eq_true.mpr ⟨r, hr, decide_eq_true hlong⟩

theorem sampleOf_noSample_iff (s : State) (obs : CycleObs) (i : Fin 63) :
    s.sampleOf obs i = .noSample ↔ Masked s i ∨ ∀ r ∈ recRuns s.drive i, r.hi < r.lo + 64 := by
  by_cases h : Masked s i
  · exact iff_of_true (sampleOf_masked h obs) (.inl h)
  · rw [sampleOf_unmasked h, ← any_qualifies_eq_false_iff, or_iff_right h]
    split
    · next hq => exact iff_of_true rfl hq
    · next hq => split <;> exact iff_of_false nofun hq

theorem sampleOf_fail_iff (s : State) (obs : CycleObs) (i : Fin 63) : s.sampleOf obs i = .fail ↔ ¬ Masked s i ∧
    failsIn obs (recRuns s.drive i) (recFails (imax Config.refOhms == 0) s.tables.policy.active i) = true := by
  by_cases h : Masked s i
  · rw [sampleOf_masked h]
    exact iff_of_false nofun fun hf => hf.1 h
  · rw [sampleOf_unmasked h, and_iff_right h]
    split
    · next hq =>
      refine iff_of_false nofun fun hf => ?_
      rw [any_qualifies_of_failsIn hf] at hq
      cases hq
    · split
      · next hf => exact iff_of_true rfl hf
      · next hf => exact iff_of_false nofun hf

/-! ### The runs of a BRIDGE record -/

theorem drive_at (d : Drive) {n : Nat} (hn : n < 16) : d.at n = d.ch[n] := by
  rw [Drive.at, Vector.getElem?_eq_getElem hn]
  rfl

/-- The counts at which `x` conducts alone are those of its conducting runs and the other's non-conducting ones (R155). -/
theorem conductsAlone_iff {x y : DriveCh} (hx : x.onTime ≤ 4096) (hy : y.onTime ≤ 4096) {i : Nat} (hi : i < 4096) :
    ((∃ r ∈ x.onRuns, Holds r i) ∧ ∃ r ∈ y.offRuns, Holds r i) ↔ ConductsAlone x y i := by
  rw [onRuns_holds x hx i hi, offRuns_holds y hy i hi, ConductsAlone]

theorem conductsAlone_maximal {x y : DriveCh} (hx : x.onTime ≤ 4096) (hy : y.onTime ≤ 4096) {r : CountRun}
    (h : r ∈ meetRuns x.onRuns y.offRuns) : r.lo < r.hi ∧ r.hi ≤ 4096 ∧ (∀ i, Holds r i → ConductsAlone x y i) ∧
      ∀ i, i < 4096 → i + 1 = r.lo ∨ i = r.hi → ¬ ConductsAlone x y i := by
  obtain ⟨hlt, hle, hin, hedge⟩ := meetRuns_maximal (onRuns_runsFrom x) (offRuns_runsFrom y) h
  refine ⟨hlt, hle, fun i hi => (conductsAlone_iff hx hy (by have := hi.2; omega)).mp (hin i hi), fun i hi he => ?_⟩
  rw [← conductsAlone_iff hx hy hi]
  exact hedge i he

/-- Two lists of runs meet in the same runs in either order of the lists. -/
theorem mem_meetRuns_comm {xs ys : List CountRun} {r : CountRun} : r ∈ meetRuns xs ys ↔ r ∈ meetRuns ys xs := by
  have hmeet : ∀ a b : CountRun, a.meet b = b.meet a := fun a b => by
    unfold CountRun.meet; rw [max_comm, min_comm]
  simp only [meetRuns, List.mem_flatMap, List.mem_filterMap]
  constructor <;> rintro ⟨a, ha, b, hb, h⟩ <;> exact ⟨b, hb, a, ha, hmeet a b ▸ h⟩

/-- Settles O44: a sample is masked or judged on its runs, and the runs of a BRIDGE record are those of one output conducting
alone. -/
theorem sampleJudgement : Obligations.SampleJudgement := by
  refine ⟨fun s obs i => ⟨Masked s i, recRuns s.drive i, Iff.rfl, recRuns_eq s.drive i, sampleOf_noSample_iff s obs i, ?_⟩,
    fun d n hd => ⟨d.ch[n.val], d.ch[n.val + 1], ?_, ?_, fun r hr => ?_, fun i hi halone => ?_⟩⟩
  · rw [sampleOf_fail_iff, failsIn_iff]
    simp only [recFails_iff]
  · exact Vector.getElem?_eq_getElem _
  · exact Vector.getElem?_eq_getElem _
  all_goals
    have ha : d.ch[n.val].onTime ≤ 4096 := hd ⟨n.val, by omega⟩
    have hb : d.ch[n.val + 1].onTime ≤ 4096 := hd ⟨n.val + 1, by omega⟩
  · rw [bridgeRuns, drive_at d (by omega), drive_at d (by omega)] at hr
    rcases List.mem_append.mp hr with hr | hr
    · obtain ⟨hlt, hle, hrest⟩ := conductsAlone_maximal ha hb hr
      exact ⟨hlt, hle, _, _, .inl ⟨rfl, rfl⟩, hrest⟩
    · obtain ⟨hlt, hle, hrest⟩ := conductsAlone_maximal hb ha (mem_meetRuns_comm.mp hr)
      exact ⟨hlt, hle, _, _, .inr ⟨rfl, rfl⟩, hrest⟩
  · rw [bridgeRuns, drive_at d (by omega), drive_at d (by omega)]
    rcases halone with h | h
    · obtain ⟨r, hr, hi⟩ := (meetRuns_holds _ _ i).mpr ((conductsAlone_iff ha hb hi).mpr h)
      exact ⟨r, List.mem_append_left _ hr, hi⟩
    · obtain ⟨r, hr, hi⟩ := (meetRuns_holds _ _ i).mpr ((conductsAlone_iff hb ha hi).mpr h)
      exact ⟨r, List.mem_append_right _ (mem_meetRuns_comm.mp hr), hi⟩

end Sys2Proof.Machine
end
